-- ==== Sys2Proof/Word.lean ====
section
/-! DEFINITION. The machine's word types and the bound of its memory (spec/00_scope.md R7, R9, R10). -/

namespace Sys2Proof

/-- A memory byte, a V register, a timer, a byte immediate KK (R7, R71). -/
abbrev Byte := BitVec 8

/-- An instruction word, PC, I, a stack entry (R7, R70). -/
abbrev Word := BitVec 16

/-- The 12-bit address immediate NNN (R71). -/
abbrev Addr := BitVec 12

/-- A 4-bit register index, X or Y: all 16 values name a register (R20, R74). -/
abbrev RegIx := BitVec 4

/-- Another 4-bit quantity: a row count N, a key index (R71, R33). -/
abbrev Nibble := BitVec 4

/-- MEM_SIZE of R7: addresses 0x000 to 0xFFF exist. -/
abbrev memSize : Nat := 4096

/-- STACK_DEPTH of R7. -/
abbrev stackDepth : Nat := 16

/-- The index of VF, the flag register (R21). -/
abbrev regF : RegIx := 0xF#4

end Sys2Proof
end

