-- ==== Sys2Proof/Config.lean ====
section
/-! DEFINITION. The configurable parameters of spec/00_scope.md R8 and the free values of the model. -/

namespace Sys2Proof

/-- SYS_POLICY (R8, R100, D4): what a SYS word does. -/
inductive SysPolicy where
  | fault
  | nop
  deriving DecidableEq, Repr

/-- SHIFT_SOURCE (R8, R129, D6): the register SHR and SHL shift. -/
inductive ShiftSource where
  | vx
  | vy
  deriving DecidableEq, Repr

/-- KEYWAIT_PICK (R8, R163, D14): the default picks the lowest pressed key; `chosen` is any other
function from a non-empty set of keys to one of its members (`Config.keywaitChoice`). -/
inductive KeywaitPick where
  | lowest
  | chosen
  deriving DecidableEq, Repr

/-- RESET_REGS (R8, R41, D18). -/
inductive ResetRegs where
  | zero
  | arbitrary
  deriving DecidableEq, Repr

/-- The parameters of R8 that are plain data. RAND is `Config.rand8`. -/
structure Config where
  /-- FONT_IMAGE: the bytes the boot loads at address 0x000 (R183, R242). -/
  fontImage : List Byte
  sysPolicy : SysPolicy
  /-- STRICT_DECODE: 5XYn and 9XYn need n = 0 (R75). -/
  strictDecode : Bool
  shiftSource : ShiftSource
  /-- LOGIC_VF_RESET: OR, AND and XOR clear VF (R124 to R126). -/
  logicVfReset : Bool
  /-- LOADSTORE_INCREMENTS_I: FX55 and FX65 move I past the bytes (R185, R186). -/
  loadstoreIncrementsI : Bool
  keywaitPick : KeywaitPick
  resetRegs : ResetRegs
  deriving DecidableEq, Repr

/-- The RAND oracle (R224): the byte of the n-th draw, under no law. A FREE VALUE: nothing can be
proved about it, so a theorem holds for every oracle (notes/assumptions/4.md). -/
opaque Config.rand8 : Nat → Byte

/-- The choice function of `KeywaitPick.chosen`, applied to the key state (R163). A FREE VALUE
(notes/assumptions/5.md); `State.pickKey` keeps the pick inside the pressed set. -/
opaque Config.keywaitChoice : Vector Bool 16 → Nibble

/-- Glyphs 0 to 7 of the default font (R183). -/
def Config.fontLow : List Byte :=
  [0xF0, 0x90, 0x90, 0x90, 0xF0, 0x20, 0x60, 0x20, 0x20, 0x70,
   0xF0, 0x10, 0xF0, 0x80, 0xF0, 0xF0, 0x10, 0xF0, 0x10, 0xF0,
   0x90, 0x90, 0xF0, 0x10, 0x10, 0xF0, 0x80, 0xF0, 0x10, 0xF0,
   0xF0, 0x80, 0xF0, 0x90, 0xF0, 0xF0, 0x10, 0x20, 0x40, 0x40]

/-- Glyphs 8 to F of the default font (R183). -/
def Config.fontHigh : List Byte :=
  [0xF0, 0x90, 0xF0, 0x90, 0xF0, 0xF0, 0x90, 0xF0, 0x10, 0xF0,
   0xF0, 0x90, 0xF0, 0x90, 0x90, 0xE0, 0x90, 0xE0, 0x90, 0xE0,
   0xF0, 0x80, 0x80, 0x80, 0xF0, 0xE0, 0x90, 0x90, 0x90, 0xE0,
   0xF0, 0x80, 0xF0, 0x80, 0xF0, 0xF0, 0x80, 0xF0, 0x80, 0x80]

/-- The defaults of R8. -/
def Config.default : Config where
  fontImage := Config.fontLow ++ Config.fontHigh
  sysPolicy := .fault
  strictDecode := true
  shiftSource := .vx
  logicVfReset := false
  loadstoreIncrementsI := false
  keywaitPick := .lowest
  resetRegs := .zero

end Sys2Proof
end

