-- ==== Sys2Proof/Syntax.lean ====
section
/-! DEFINITION. The 35 instructions, one constructor per row of the opcode map (spec/30_encoding.md R76, R80). -/

namespace Sys2Proof

/-- The closed set of instruction variants of R18 and R80. The row number of R76 stands behind each. -/
inductive Instr where
  /-- `0NNN` SYS NNN (row 1, R100) -/
  | sys (nnn : Addr)
  /-- `00E0` CLS (row 2, R140) -/
  | cls
  /-- `00EE` RET (row 3, R101) -/
  | ret
  /-- `1NNN` JP NNN (row 4, R102) -/
  | jp (nnn : Addr)
  /-- `2NNN` CALL NNN (row 5, R103) -/
  | call (nnn : Addr)
  /-- `3XKK` SE VX, KK (row 6, R104) -/
  | seImm (x : RegIx) (kk : Byte)
  /-- `4XKK` SNE VX, KK (row 7, R105) -/
  | sneImm (x : RegIx) (kk : Byte)
  /-- `5XY0` SE VX, VY (row 8, R106) -/
  | seReg (x y : RegIx)
  /-- `6XKK` LD VX, KK (row 9, R121) -/
  | ldImm (x : RegIx) (kk : Byte)
  /-- `7XKK` ADD VX, KK (row 10, R122) -/
  | addImm (x : RegIx) (kk : Byte)
  /-- `8XY0` LD VX, VY (row 11, R123) -/
  | ldReg (x y : RegIx)
  /-- `8XY1` OR VX, VY (row 12, R124) -/
  | orReg (x y : RegIx)
  /-- `8XY2` AND VX, VY (row 13, R125) -/
  | andReg (x y : RegIx)
  /-- `8XY3` XOR VX, VY (row 14, R126) -/
  | xorReg (x y : RegIx)
  /-- `8XY4` ADD VX, VY (row 15, R127) -/
  | addReg (x y : RegIx)
  /-- `8XY5` SUB VX, VY (row 16, R128) -/
  | subReg (x y : RegIx)
  /-- `8XY6` SHR VX, VY (row 17, R129) -/
  | shr (x y : RegIx)
  /-- `8XY7` SUBN VX, VY (row 18, R130) -/
  | subn (x y : RegIx)
  /-- `8XYE` SHL VX, VY (row 19, R131) -/
  | shl (x y : RegIx)
  /-- `9XY0` SNE VX, VY (row 20, R107) -/
  | sneReg (x y : RegIx)
  /-- `ANNN` LD I, NNN (row 21, R180) -/
  | ldI (nnn : Addr)
  /-- `BNNN` JP V0, NNN (row 22, R108) -/
  | jpV0 (nnn : Addr)
  /-- `CXKK` RND VX, KK (row 23, R132) -/
  | rnd (x : RegIx) (kk : Byte)
  /-- `DXYN` DRW VX, VY, N (row 24, R142) -/
  | drw (x y : RegIx) (n : Nibble)
  /-- `EX9E` SKP VX (row 25, R160) -/
  | skp (x : RegIx)
  /-- `EXA1` SKNP VX (row 26, R161) -/
  | sknp (x : RegIx)
  /-- `FX07` LD VX, DT (row 27, R162) -/
  | ldXDt (x : RegIx)
  /-- `FX0A` LD VX, K (row 28, R163) -/
  | ldXK (x : RegIx)
  /-- `FX15` LD DT, VX (row 29, R164) -/
  | ldDtX (x : RegIx)
  /-- `FX18` LD ST, VX (row 30, R165) -/
  | ldStX (x : RegIx)
  /-- `FX1E` ADD I, VX (row 31, R181) -/
  | addI (x : RegIx)
  /-- `FX29` LD F, VX (row 32, R182) -/
  | ldF (x : RegIx)
  /-- `FX33` LD B, VX (row 33, R184) -/
  | ldB (x : RegIx)
  /-- `FX55` LD [I], VX (row 34, R185) -/
  | ldMemX (x : RegIx)
  /-- `FX65` LD VX, [I] (row 35, R186) -/
  | ldXMem (x : RegIx)
  deriving DecidableEq, Repr

end Sys2Proof
end

