-- ==== Sys2Proof/WellFormed.lean ====
section
/-! DEFINITION. Which instruction terms some word encodes. -/

namespace Sys2Proof

/-- Every operand field is as wide as its encoding, so every term is an instruction of R76 but two:
the words 0x00E0 and 0x00EE are CLS and RET, never SYS (R77, R81). -/
def WellFormed : Instr → Bool
  | .sys nnn => nnn != 0x0E0#12 && nnn != 0x0EE#12
  | .cls | .ret | .jp _ | .call _ | .seImm _ _ | .sneImm _ _ | .seReg _ _ | .ldImm _ _ | .addImm _ _
  | .ldReg _ _ | .orReg _ _ | .andReg _ _ | .xorReg _ _ | .addReg _ _ | .subReg _ _ | .shr _ _
  | .subn _ _ | .shl _ _ | .sneReg _ _ | .ldI _ | .jpV0 _ | .rnd _ _ | .drw _ _ _ | .skp _ | .sknp _
  | .ldXDt _ | .ldXK _ | .ldDtX _ | .ldStX _ | .addI _ | .ldF _ | .ldB _ | .ldMemX _ | .ldXMem _ => true

end Sys2Proof
end

