-- ==== Sys2Proof/Decode.lean ====
section
/-! DEFINITION. Decoding, total on every word, and the encoder (spec/30_encoding.md). -/

namespace Sys2Proof

/-- What decoding answers: an instruction, or the rejection by name. -/
inductive Verdict where
  | instr (i : Instr)
  /-- The word matches no row of R76 (R78): the cycle raises UnsupportedOpcode (R80). -/
  | unsupported
  /-- Fewer than the two bytes every instruction has (R70). -/
  | truncated
  deriving DecidableEq, Repr

/-! ## The fields of an instruction word (R71) -/

def opOf (w : Word) : Nibble := w.extractLsb' 12 4
def xOf (w : Word) : RegIx := w.extractLsb' 8 4
def yOf (w : Word) : RegIx := w.extractLsb' 4 4
def nOf (w : Word) : Nibble := w.extractLsb' 0 4
def kkOf (w : Word) : Byte := w.extractLsb' 0 8
def nnnOf (w : Word) : Addr := w.extractLsb' 0 12

/-! ## Decode (R80) -/

/-- Group 0 (R77). -/
def decode0 (w : Word) : Verdict :=
  if w = 0x00E0#16 then .instr .cls
  else if w = 0x00EE#16 then .instr .ret
  else .instr (.sys (nnnOf w))

/-- Group 8, by the low nibble (R75). -/
def decode8 (x y : RegIx) (n : Nibble) : Verdict :=
  match n with
  | 0x0#4 => .instr (.ldReg x y)
  | 0x1#4 => .instr (.orReg x y)
  | 0x2#4 => .instr (.andReg x y)
  | 0x3#4 => .instr (.xorReg x y)
  | 0x4#4 => .instr (.addReg x y)
  | 0x5#4 => .instr (.subReg x y)
  | 0x6#4 => .instr (.shr x y)
  | 0x7#4 => .instr (.subn x y)
  | 0xE#4 => .instr (.shl x y)
  | _ => .unsupported

/-- Group E, by the low byte (R75). -/
def decodeE (x : RegIx) (kk : Byte) : Verdict :=
  match kk with
  | 0x9E#8 => .instr (.skp x)
  | 0xA1#8 => .instr (.sknp x)
  | _ => .unsupported

/-- Group F, by the low byte (R75). -/
def decodeF (x : RegIx) (kk : Byte) : Verdict :=
  match kk with
  | 0x07#8 => .instr (.ldXDt x)
  | 0x0A#8 => .instr (.ldXK x)
  | 0x15#8 => .instr (.ldDtX x)
  | 0x18#8 => .instr (.ldStX x)
  | 0x1E#8 => .instr (.addI x)
  | 0x29#8 => .instr (.ldF x)
  | 0x33#8 => .instr (.ldB x)
  | 0x55#8 => .instr (.ldMemX x)
  | 0x65#8 => .instr (.ldXMem x)
  | _ => .unsupported

/-- Decode(w) of R80; `strict` is STRICT_DECODE (R75). -/
def decode (strict : Bool) (w : Word) : Verdict :=
  match opOf w with
  | 0x0#4 => decode0 w
  | 0x1#4 => .instr (.jp (nnnOf w))
  | 0x2#4 => .instr (.call (nnnOf w))
  | 0x3#4 => .instr (.seImm (xOf w) (kkOf w))
  | 0x4#4 => .instr (.sneImm (xOf w) (kkOf w))
  | 0x5#4 => if nOf w = 0x0#4 ∨ strict = false then .instr (.seReg (xOf w) (yOf w)) else .unsupported
  | 0x6#4 => .instr (.ldImm (xOf w) (kkOf w))
  | 0x7#4 => .instr (.addImm (xOf w) (kkOf w))
  | 0x8#4 => decode8 (xOf w) (yOf w) (nOf w)
  | 0x9#4 => if nOf w = 0x0#4 ∨ strict = false then .instr (.sneReg (xOf w) (yOf w)) else .unsupported
  | 0xA#4 => .instr (.ldI (nnnOf w))
  | 0xB#4 => .instr (.jpV0 (nnnOf w))
  | 0xC#4 => .instr (.rnd (xOf w) (kkOf w))
  | 0xD#4 => .instr (.drw (xOf w) (yOf w) (nOf w))
  | 0xE#4 => decodeE (xOf w) (kkOf w)
  | _ => decodeF (xOf w) (kkOf w)

/-- Two bytes as one instruction word: the byte at the lower address is the high one (R57). -/
def wordOfBytes (hi lo : Byte) : Word := hi ++ lo

/-- Decoding the bytes of an instruction in address order; the bytes after the first two are not its own (R70). -/
def decodeBytes (strict : Bool) : List Byte → Verdict
  | hi :: lo :: _ => decode strict (wordOfBytes hi lo)
  | _ => .truncated

/-! ## The encoder (R72, R85) -/

def encA (op : Nibble) (nnn : Addr) : Word := op ++ nnn
def encR (op : Nibble) (x : RegIx) (kk : Byte) : Word := op ++ x ++ kk
def encRR (op : Nibble) (x y : RegIx) (n : Nibble) : Word := op ++ x ++ y ++ n
def encRF (op : Nibble) (x : RegIx) (fn : Byte) : Word := op ++ x ++ fn

/-- The word of an instruction, by its row of R76. -/
def encode : Instr → Word
  | .sys nnn => encA 0x0 nnn
  | .cls => 0x00E0
  | .ret => 0x00EE
  | .jp nnn => encA 0x1 nnn
  | .call nnn => encA 0x2 nnn
  | .seImm x kk => encR 0x3 x kk
  | .sneImm x kk => encR 0x4 x kk
  | .seReg x y => encRR 0x5 x y 0x0
  | .ldImm x kk => encR 0x6 x kk
  | .addImm x kk => encR 0x7 x kk
  | .ldReg x y => encRR 0x8 x y 0x0
  | .orReg x y => encRR 0x8 x y 0x1
  | .andReg x y => encRR 0x8 x y 0x2
  | .xorReg x y => encRR 0x8 x y 0x3
  | .addReg x y => encRR 0x8 x y 0x4
  | .subReg x y => encRR 0x8 x y 0x5
  | .shr x y => encRR 0x8 x y 0x6
  | .subn x y => encRR 0x8 x y 0x7
  | .shl x y => encRR 0x8 x y 0xE
  | .sneReg x y => encRR 0x9 x y 0x0
  | .ldI nnn => encA 0xA nnn
  | .jpV0 nnn => encA 0xB nnn
  | .rnd x kk => encR 0xC x kk
  | .drw x y n => encRR 0xD x y n
  | .skp x => encRF 0xE x 0x9E
  | .sknp x => encRF 0xE x 0xA1
  | .ldXDt x => encRF 0xF x 0x07
  | .ldXK x => encRF 0xF x 0x0A
  | .ldDtX x => encRF 0xF x 0x15
  | .ldStX x => encRF 0xF x 0x18
  | .addI x => encRF 0xF x 0x1E
  | .ldF x => encRF 0xF x 0x29
  | .ldB x => encRF 0xF x 0x33
  | .ldMemX x => encRF 0xF x 0x55
  | .ldXMem x => encRF 0xF x 0x65

/-- The two bytes of an instruction in address order (R57). -/
def encodeBytes (i : Instr) : List Byte :=
  [(encode i).extractLsb' 8 8, (encode i).extractLsb' 0 8]

/-! ## The opcode map (R76) -/

/-- The (match, mask) pair of an instruction's row of R76. -/
def rowOf : Instr → Word × Word
  | .sys _ => (0x0000, 0xF000)
  | .cls => (0x00E0, 0xFFFF)
  | .ret => (0x00EE, 0xFFFF)
  | .jp _ => (0x1000, 0xF000)
  | .call _ => (0x2000, 0xF000)
  | .seImm _ _ => (0x3000, 0xF000)
  | .sneImm _ _ => (0x4000, 0xF000)
  | .seReg _ _ => (0x5000, 0xF00F)
  | .ldImm _ _ => (0x6000, 0xF000)
  | .addImm _ _ => (0x7000, 0xF000)
  | .ldReg _ _ => (0x8000, 0xF00F)
  | .orReg _ _ => (0x8001, 0xF00F)
  | .andReg _ _ => (0x8002, 0xF00F)
  | .xorReg _ _ => (0x8003, 0xF00F)
  | .addReg _ _ => (0x8004, 0xF00F)
  | .subReg _ _ => (0x8005, 0xF00F)
  | .shr _ _ => (0x8006, 0xF00F)
  | .subn _ _ => (0x8007, 0xF00F)
  | .shl _ _ => (0x800E, 0xF00F)
  | .sneReg _ _ => (0x9000, 0xF00F)
  | .ldI _ => (0xA000, 0xF000)
  | .jpV0 _ => (0xB000, 0xF000)
  | .rnd _ _ => (0xC000, 0xF000)
  | .drw _ _ _ => (0xD000, 0xF000)
  | .skp _ => (0xE09E, 0xF0FF)
  | .sknp _ => (0xE0A1, 0xF0FF)
  | .ldXDt _ => (0xF007, 0xF0FF)
  | .ldXK _ => (0xF00A, 0xF0FF)
  | .ldDtX _ => (0xF015, 0xF0FF)
  | .ldStX _ => (0xF018, 0xF0FF)
  | .addI _ => (0xF01E, 0xF0FF)
  | .ldF _ => (0xF029, 0xF0FF)
  | .ldB _ => (0xF033, 0xF0FF)
  | .ldMemX _ => (0xF055, 0xF0FF)
  | .ldXMem _ => (0xF065, 0xF0FF)

/-! ## The table's words, for the host -/

/-- The high and the low byte of a word given as a number, in address order (R57). -/
def tableBytes (nbits w : Nat) : List Byte :=
  [BitVec.ofNat 8 (w % 2 ^ nbits / 256), BitVec.ofNat 8 (w % 2 ^ nbits)]

/-- What the decoder reads, under R8's default STRICT_DECODE, from an instruction with the bits `w`
(the bits from `nbits` up are 0). -/
def decodeTableWord (nbits w : Nat) : Option Instr :=
  match decodeBytes Config.default.strictDecode (tableBytes nbits w) with
  | .instr i => some i
  | .unsupported => none
  | .truncated => none

end Sys2Proof
end

