-- ==== Sys2Proof/Machine/State.lean ====
section
/-! DEFINITION. The state of the block as plain data, the reasons a step stops, and reset (spec/10_state.md, spec/60_exceptions.md). -/

namespace Sys2Proof.Machine

/-! ## Memory (R50) -/

/-- MEM as (address, byte) pairs in one canonical form: addresses strictly rising and below 4096, and no
entry equal to what an unlisted address reads as. -/
abbrev Memory := List Host.Cell

/-- What an address not listed reads as: MEM is "zero-initialized" (R50; notes/assumptions/7.md). -/
def Memory.unlisted : Byte := 0x00#8

/-- The canonical form, for the part of memory from address `lo` up. -/
def Memory.wfFrom : Nat → Memory → Bool
  | _, [] => true
  | lo, (a, v) :: m => decide (lo ≤ a) && decide (a < memSize) && decide (v ≠ Memory.unlisted) && Memory.wfFrom (a + 1) m

/-- The canonical form of a memory. -/
def Memory.wf (m : Memory) : Bool := Memory.wfFrom 0 m

/-! ## The other shapes of state -/

/-- V0 to VF (R20). -/
abbrev Registers := Vector Byte 16

/-- stack[0..15] (R27). -/
abbrev ReturnStack := Vector Word 16

/-- FB, 32 rows of 64 one-bit pixels (R32). -/
abbrev Framebuffer := Vector (Vector Bool 64) 32

/-- KEY[0x0..0xF], true while pressed (R33). -/
abbrev Keypad := Vector Bool 16

/-- The three fault kinds (R200). -/
inductive FaultKind where
  | outOfBoundsAccess
  | unsupportedOpcode
  | resourceLoadFailure
  deriving DecidableEq, Repr

/-- The `detail` of a fault record (R37). -/
inductive FaultDetail where
  | fetch
  | read
  | write
  | stackOverflow
  | stackUnderflow
  | keyIndex
  | decode
  | load
  deriving DecidableEq, Repr

/-- The fault record (R37). Its `code` is `FaultRecord.code`, computed from the kind (R200). -/
structure FaultRecord where
  kind : FaultKind
  pc : Option Word
  opcode : Option Word
  address : Option Nat
  detail : FaultDetail
  deriving DecidableEq, Repr

/-- The numeric code of a fault kind (R200). -/
def FaultKind.code : FaultKind → Nat
  | .outOfBoundsAccess => 1
  | .unsupportedOpcode => 2
  | .resourceLoadFailure => 3

/-- The `code` field of the record (R37). -/
def FaultRecord.code (r : FaultRecord) : Nat := r.kind.code

/-- The run status (R36). -/
inductive RunStatus where
  | running
  | haltedAwaitingKey
  | faulted
  deriving DecidableEq, Repr

/-- The host operations of R215. -/
inductive HostOp where
  | cycle
  | tickTimers
  | press (k : Nat)
  | release (k : Nat)
  | loadBinary (data : List Byte) (offset : Nat)
  | readStatus
  | readFramebuffer
  deriving DecidableEq, Repr

/-- The state of the block (R41), and the model's own three fields (R43; notes/assumptions/2.md to 4.md). -/
structure State where
  /-- MEM (R50) -/
  mem : Memory
  /-- V0 to VF (R20) -/
  v : Registers
  /-- I (R26) -/
  index : Word
  /-- PC (R23) -/
  pc : Word
  /-- SP, the number of stack entries in use (R28) -/
  sp : Byte
  /-- stack[0..15] (R27) -/
  stack : ReturnStack
  /-- DT (R30) -/
  dt : Byte
  /-- ST (R31) -/
  st : Byte
  /-- FB (R32) -/
  fb : Framebuffer
  /-- KEY (R33) -/
  key : Keypad
  /-- wait_reg; the block is halted exactly while it is some register (R34, R35) -/
  waitReg : Option RegIx
  /-- the fault record (R37) -/
  fault : Option FaultRecord
  /-- started (R38) -/
  started : Bool
  /-- the configuration of R8: a parameter of the step, changed by none -/
  cfg : Config
  /-- the host's next operations, soonest first; when it is empty the host calls cycle() (R216) -/
  schedule : List HostOp
  /-- how many bytes RAND has given (R224) -/
  draws : Nat
  deriving DecidableEq, Repr

/-- Why a step stops. -/
inductive Fault where
  /-- Raised by `cycle` and `perform` (and so `step`) when the host asks a FAULTED block for an operation
  that has no step (R207); it carries the record the block already holds. Safe: the block is FAULTED for
  good and no operation but a read does anything. -/
  | faulted (r : FaultRecord)
  deriving DecidableEq, Repr

/-- Why an instruction has no meaning. -/
inductive Refusal where
  /-- Raised by `exec` for an instruction the model does not give a meaning (none at present). Safe: the
  model stops where the block goes on. -/
  | notModelled (mnemonic : String)
  deriving DecidableEq, Repr

/-- What a step, a cycle or an instruction answers. -/
abbrev Result := Host.Outcome State Fault Refusal

/-! ## Reset (R240, R41) -/

/-- The values that RESET_REGS = arbitrary leaves open: the rows of R41 marked D18. -/
structure ResetValues where
  v : Registers
  index : Word
  sp : Byte
  stack : ReturnStack
  dt : Byte
  st : Byte
  fb : Framebuffer
  key : Keypad
  deriving DecidableEq, Repr

/-- RESET_REGS = zero (R41, D18). -/
def ResetValues.zero : ResetValues where
  v := Vector.replicate 16 0x00#8
  index := 0x0000#16
  sp := 0x00#8
  stack := Vector.replicate 16 0x0000#16
  dt := 0x00#8
  st := 0x00#8
  fb := Vector.replicate 32 (Vector.replicate 64 false)
  key := Vector.replicate 16 false

/-- Which values the construction takes: RESET_REGS chooses between zero and the given ones (R41). -/
def ResetValues.choose (c : Config) (d : ResetValues) : ResetValues :=
  match c.resetRegs with
  | .zero => ResetValues.zero
  | .arbitrary => d

/-- The construction of a block (R240) under a configuration; `d` counts only under RESET_REGS = arbitrary. -/
def State.construct (c : Config) (d : ResetValues) : State where
  mem := []
  v := (ResetValues.choose c d).v
  index := (ResetValues.choose c d).index
  pc := 0x0200#16
  sp := (ResetValues.choose c d).sp
  stack := (ResetValues.choose c d).stack
  dt := (ResetValues.choose c d).dt
  st := (ResetValues.choose c d).st
  fb := (ResetValues.choose c d).fb
  key := (ResetValues.choose c d).key
  waitReg := none
  fault := none
  started := false
  cfg := c
  schedule := []
  draws := 0

/-- The machine right after reset, at the defaults of R8 (notes/assumptions/6.md). -/
def State.reset : State := State.construct Config.default ResetValues.zero

end Sys2Proof.Machine
end

