-- ==== Sys2Proof/Machine/Ops.lean ====
section
/-! DEFINITION. The named operations over memory, registers, stack, screen, keypad and run state, and raising a fault. -/

namespace Sys2Proof.Machine

/-! ## Memory (R50 to R55) -/

/-- The byte at an address, with no bound. -/
def Memory.read : Memory → Nat → Byte
  | [], _ => Memory.unlisted
  | (b, w) :: m, a => if b = a then w else Memory.read m a

/-- The memory without its entry at an address. -/
def Memory.erase : Memory → Nat → Memory
  | [], _ => []
  | (b, w) :: m, a => if b = a then Memory.erase m a else (b, w) :: Memory.erase m a

/-- The memory with an entry put before the first one of a higher address. -/
def Memory.insert : Memory → Nat → Byte → Memory
  | [], a, x => [(a, x)]
  | (b, w) :: m, a, x => if a < b then (a, x) :: (b, w) :: m else (b, w) :: Memory.insert m a x

/-- The memory with one byte stored, with no bound. A byte equal to `Memory.unlisted` is not listed. -/
def Memory.write (m : Memory) (a : Nat) (x : Byte) : Memory :=
  if x = Memory.unlisted then m.erase a else (m.erase a).insert a x

/-- Consecutive bytes stored from an address up, lowest first (R52, R60). -/
def Memory.writeBytes : Memory → Nat → List Byte → Memory
  | m, _, [] => m
  | m, a, x :: xs => Memory.writeBytes (m.write a x) (a + 1) xs

/-- Consecutive bytes from an address up, lowest first (R60). -/
def Memory.readBytes (m : Memory) : Nat → Nat → List Byte
  | _, 0 => []
  | a, n + 1 => m.read a :: Memory.readBytes m (a + 1) n

/-- MemRead(addr, 1) of R53: `none` is the OutOfBoundsAccess at that address. -/
def State.memRead (s : State) (a : Nat) : Option Byte :=
  if a < memSize then some (s.mem.read a) else none

/-- MemWrite(addr, 1, v) of R54: `none` is the OutOfBoundsAccess at that address. -/
def State.memWrite (s : State) (a : Nat) (x : Byte) : Option State :=
  if a < memSize then some { s with mem := s.mem.write a x } else none

/-- The check of an access to `n` bytes from address `a` (R55, R187): the lowest offending address, if any. -/
def rangeFault (a n : Nat) : Option Nat :=
  if 0 < n ∧ memSize < a + n then some (max a memSize) else none

/-- The state with bytes stored from an address up. -/
def State.store (s : State) (a : Nat) (bytes : List Byte) : State :=
  { s with mem := s.mem.writeBytes a bytes }

/-! ## Registers (R20 to R26) -/

/-- V[i] (R20). -/
def State.reg (s : State) (x : RegIx) : Byte := s.v[x.toNat]

/-- V[i] <- v (R20). -/
def State.setReg (s : State) (x : RegIx) (b : Byte) : State :=
  { s with v := s.v.set x.toNat b }

/-- V[j], V[j+1], ... <- the bytes, lowest register first (R186). -/
def State.setRegsFrom (s : State) : Nat → List Byte → State
  | _, [] => s
  | j, b :: bs => (s.setReg (BitVec.ofNat 4 j) b).setRegsFrom (j + 1) bs

/-- V0 to V[x], lowest first (R185). -/
def State.regsUpTo (s : State) (x : RegIx) : List Byte := s.v.toList.take (x.toNat + 1)

/-- I <- v (R26). -/
def State.setIndex (s : State) (w : Word) : State := { s with index := w }

/-- pc <- target (R25). -/
def State.setPc (s : State) (w : Word) : State := { s with pc := w }

/-- The advance of the fetch, before execution: pc <- pc0 + 2 (R58). -/
def State.advance (s : State) : State := s.setPc (s.pc + 2)

/-- The skip idiom of R14: pc <- pc + 2 once more when the condition holds. -/
def State.skipIf (s : State) (c : Bool) : State := if c then s.setPc (s.pc + 2) else s

/-- DT <- v (R30). -/
def State.setDt (s : State) (b : Byte) : State := { s with dt := b }

/-- ST <- v (R31). -/
def State.setSt (s : State) (b : Byte) : State := { s with st := b }

/-! ## The return stack (R27 to R29) -/

/-- stack[j]. -/
def State.stackAt (s : State) (j : Nibble) : Word := s.stack[j.toNat]

/-- SP <- v (R28). -/
def State.setSp (s : State) (b : Byte) : State := { s with sp := b }

/-- The stack entries replaced. -/
def State.setStack (s : State) (entries : ReturnStack) : State := { s with stack := entries }

/-- Push(v) of R29; the error is the `detail` of the OutOfBoundsAccess it raises. An SP above 16, which
R28 rules out, has no entry to write either (notes/assumptions/9.md). -/
def State.push (s : State) (w : Word) : Except FaultDetail State :=
  if h : s.sp.toNat < stackDepth then
    .ok ((s.setStack (s.stack.set s.sp.toNat w h)).setSp (s.sp + 1))
  else .error .stackOverflow

/-- Pop() of R29: the entry and the state with SP lowered; nothing is cleared. An SP above 16, which R28
rules out, names no entry: the operation exceeds the stack's capacity (notes/assumptions/9.md). -/
def State.pop (s : State) : Except FaultDetail (Word × State) :=
  if s.sp = 0x00#8 then .error .stackUnderflow
  else if h : (s.sp - 1).toNat < stackDepth then
    .ok (s.stack[(s.sp - 1).toNat], s.setSp (s.sp - 1))
  else .error .stackOverflow

/-! ## The framebuffer (R32) -/

/-- FB[x][y]. -/
def Framebuffer.pixel (fb : Framebuffer) (x : Fin 64) (y : Fin 32) : Bool := fb[y][x]

/-- FB[x][y] <- b. -/
def Framebuffer.setPixel (fb : Framebuffer) (x : Fin 64) (y : Fin 32) (b : Bool) : Framebuffer :=
  fb.set y (fb[y].set x b)

/-- Every pixel off (R140). -/
def Framebuffer.clear : Framebuffer := Vector.replicate 32 (Vector.replicate 64 false)

/-- FB[x][y] of a state. -/
def State.pixel (s : State) (x : Fin 64) (y : Fin 32) : Bool := s.fb.pixel x y

/-- FB <- a new grid. -/
def State.setFb (s : State) (fb : Framebuffer) : State := { s with fb := fb }

/-! ## The keypad and the key-wait (R33 to R35) -/

/-- KEY[k]. -/
def State.keyDown (s : State) (k : Nibble) : Bool := s.key[k.toNat]

/-- KEY[k] <- b. -/
def State.setKey (s : State) (k : Nibble) (b : Bool) : State := { s with key := s.key.set k.toNat b }

/-- wait_reg <- a register or none (R34). -/
def State.setWait (s : State) (w : Option RegIx) : State := { s with waitReg := w }

/-- halted (R35). -/
def State.halted (s : State) : Bool := s.waitReg.isSome

/-- The key indices in rising order. -/
def keyIndices : List Nibble :=
  [0x0, 0x1, 0x2, 0x3, 0x4, 0x5, 0x6, 0x7, 0x8, 0x9, 0xA, 0xB, 0xC, 0xD, 0xE, 0xF]

/-- The lowest key of P = the pressed keys, none when P is empty (R163). -/
def State.lowestKey (s : State) : Option Nibble := keyIndices.find? s.keyDown

/-- KEYWAIT_PICK(P) of R163: none when P is empty, else a member of P. A free choice that is no member
counts as the lowest one, so that the pick is always a pressed key (notes/assumptions/5.md). -/
def State.pickKey (s : State) : Option Nibble :=
  match s.lowestKey with
  | none => none
  | some low =>
    match s.cfg.keywaitPick with
    | .lowest => some low
    | .chosen =>
      if s.keyDown (Config.keywaitChoice s.key) then some (Config.keywaitChoice s.key) else some low

/-! ## Run state, host schedule, random draws (R36 to R43) -/

/-- started <- true (R40). -/
def State.start (s : State) : State := { s with started := true }

/-- The host's schedule replaced (R216). -/
def State.setSchedule (s : State) (ops : List HostOp) : State := { s with schedule := ops }

/-- The byte the RAND oracle gives next (R224). -/
def State.nextRandom (s : State) : Byte := Config.rand8 s.draws

/-- One draw made (R224). -/
def State.countDraw (s : State) : State := { s with draws := s.draws + 1 }

/-- The run status (R36). -/
def State.runStatus (s : State) : RunStatus :=
  if s.fault.isSome then .faulted else if s.halted then .haltedAwaitingKey else .running

/-- sound_active (R221). -/
def State.soundActive (s : State) : Bool := s.st != 0x00#8

/-! ## Raising a fault (R203, R206)

The block has no handler: the record is written, everything else stays as it was, and the next operation
of the host finds the block FAULTED (R207, notes/assumptions/1.md). -/

/-- raise K(info) of R203. -/
def State.raise (s : State) (kind : FaultKind) (pc opcode : Option Word) (address : Option Nat) (detail : FaultDetail) : State :=
  { s with fault := some { kind := kind, pc := pc, opcode := opcode, address := address, detail := detail } }

/-- A fault an instruction raises. `s` is the state before the instruction, so pc is pc0 and nothing it
would have done is kept (R206); the opcode is the instruction's own word (R201, notes/assumptions/10.md). -/
def State.raiseAt (s : State) (i : Instr) (kind : FaultKind) (address : Option Nat) (detail : FaultDetail) : State :=
  s.raise kind (some s.pc) (some (encode i)) address detail

/-! ## Fetch (R57) -/

/-- Fetch(pc): the word, or the first offending address. The second byte's address is unbounded. -/
def State.fetch (s : State) : Except Nat Word :=
  match s.memRead s.pc.toNat with
  | none => .error s.pc.toNat
  | some hi =>
    match s.memRead (s.pc.toNat + 1) with
    | none => .error (s.pc.toNat + 1)
    | some lo => .ok (wordOfBytes hi lo)

end Sys2Proof.Machine
end

