-- ==== Sys2Proof/Machine/Flags.lean ====
section
/-! DEFINITION. Every flag the spec computes, and how a result and its flag are written (spec/10_state.md R21, R22; spec/41_alu.md R120). -/

namespace Sys2Proof.Machine

/-- A flag as written to VF: 0 or 1 (R22). -/
def flagByte (b : Bool) : Byte := if b then 0x01#8 else 0x00#8

/-- Carry of 8XY4: the exact sum exceeds 255 (R127). -/
def carryOut (a b : Byte) : Bool := decide (255 < a.toNat + b.toNat)

/-- Not-borrow of a subtraction: minuend ≥ subtrahend (R128, R130). -/
def notBorrow (minuend subtrahend : Byte) : Bool := decide (subtrahend.toNat ≤ minuend.toNat)

/-- The bit a right shift by one moves out: bit 0 (R129). -/
def shiftedOutLow (b : Byte) : Bool := b.getLsbD 0

/-- The bit a left shift by one moves out: bit 7 (R131). -/
def shiftedOutHigh (b : Byte) : Bool := b.getLsbD 7

/-- The write order of R120: the result to V[x] first, the flag to VF second. -/
def State.setRegFlag (s : State) (x : RegIx) (result : Byte) (flag : Bool) : State :=
  (s.setReg x result).setReg regF (flagByte flag)

/-- The result of OR, AND and XOR; VF <- 0 only under LOGIC_VF_RESET (R124 to R126). -/
def State.setRegLogic (s : State) (x : RegIx) (result : Byte) : State :=
  if s.cfg.logicVfReset then (s.setReg x result).setReg regF 0x00#8 else s.setReg x result

end Sys2Proof.Machine
end

