-- ==== Sys2Proof/Machine/Operands.lean ====
section
/-! DEFINITION. The operand forms: immediates, the shift source, key indices, BCD digits, the glyph address, ranges at I. -/

namespace Sys2Proof.Machine

/-- NNN as a 16-bit address (R73). -/
def addrOf (nnn : Addr) : Word := nnn.setWidth 16

/-- A byte as a 16-bit addend (R108, R181). -/
def wide (b : Byte) : Word := b.setWidth 16

/-- The value SHR and SHL shift, by SHIFT_SOURCE (R129, R131). -/
def State.shiftOperand (s : State) (x y : RegIx) : Byte :=
  match s.cfg.shiftSource with
  | .vx => s.reg x
  | .vy => s.reg y

/-- KeyIndex(k) of R166: none when the value names no key. -/
def keyIndex (k : Byte) : Option Nibble :=
  if 0xF < k.toNat then none else some (k.setWidth 4)

/-- The digits of FX33: hundreds, tens, units (R184). -/
def bcdDigits (b : Byte) : List Byte :=
  [BitVec.ofNat 8 (b.toNat / 100), BitVec.ofNat 8 (b.toNat / 10 % 10), BitVec.ofNat 8 (b.toNat % 10)]

/-- FONT_BASE + 5 * VX with FONT_BASE = 0, not masked (R182). -/
def glyphAddress (b : Byte) : Word := 5 * wide b

/-- I after FX55 and FX65: (I + X + 1) mod 2^16 under LOADSTORE_INCREMENTS_I, else I (R185, R186). -/
def State.bumpIndex (s : State) (x : RegIx) : State :=
  if s.cfg.loadstoreIncrementsI then s.setIndex (s.index + x.setWidth 16 + 1) else s

end Sys2Proof.Machine
end

