-- ==== Sys2Proof/Machine/Alu.lean ====
section
/-! DEFINITION. Register loads, the ALU and the random byte (spec/41_alu.md). Operands are those of the state the
instruction starts in, the result is written first and the flag second (R120). -/

namespace Sys2Proof.Machine

/-- LD VX, KK (R121). -/
def execLdImm (x : RegIx) (kk : Byte) (s : State) : Result :=
  .next (s.advance.setReg x kk)

/-- ADD VX, KK (R122): no flag. -/
def execAddImm (x : RegIx) (kk : Byte) (s : State) : Result :=
  .next (s.advance.setReg x (s.reg x + kk))

/-- LD VX, VY (R123). -/
def execLdReg (x y : RegIx) (s : State) : Result :=
  .next (s.advance.setReg x (s.reg y))

/-- OR VX, VY (R124). -/
def execOrReg (x y : RegIx) (s : State) : Result :=
  .next (s.advance.setRegLogic x (s.reg x ||| s.reg y))

/-- AND VX, VY (R125). -/
def execAndReg (x y : RegIx) (s : State) : Result :=
  .next (s.advance.setRegLogic x (s.reg x &&& s.reg y))

/-- XOR VX, VY (R126). -/
def execXorReg (x y : RegIx) (s : State) : Result :=
  .next (s.advance.setRegLogic x (s.reg x ^^^ s.reg y))

/-- ADD VX, VY (R127): VF <- carry. -/
def execAddReg (x y : RegIx) (s : State) : Result :=
  .next (s.advance.setRegFlag x (s.reg x + s.reg y) (carryOut (s.reg x) (s.reg y)))

/-- SUB VX, VY (R128): VF <- not-borrow. -/
def execSubReg (x y : RegIx) (s : State) : Result :=
  .next (s.advance.setRegFlag x (s.reg x - s.reg y) (notBorrow (s.reg x) (s.reg y)))

/-- SHR VX, VY (R129): VF <- the bit shifted out of the bottom. -/
def execShr (x y : RegIx) (s : State) : Result :=
  .next (s.advance.setRegFlag x (s.shiftOperand x y >>> 1) (shiftedOutLow (s.shiftOperand x y)))

/-- SUBN VX, VY (R130): VY - VX into VX, VF <- not-borrow. -/
def execSubn (x y : RegIx) (s : State) : Result :=
  .next (s.advance.setRegFlag x (s.reg y - s.reg x) (notBorrow (s.reg y) (s.reg x)))

/-- SHL VX, VY (R131): VF <- the bit shifted out of the top. -/
def execShl (x y : RegIx) (s : State) : Result :=
  .next (s.advance.setRegFlag x (s.shiftOperand x y <<< 1) (shiftedOutHigh (s.shiftOperand x y)))

/-- RND VX, KK (R132): one fresh draw of the RAND oracle (R224). -/
def execRnd (x : RegIx) (kk : Byte) (s : State) : Result :=
  .next (s.advance.setReg x (s.nextRandom &&& kk)).countDraw

end Sys2Proof.Machine
end

