-- ==== Sys2Proof/Machine/Control.lean ====
section
/-! DEFINITION. Control flow: SYS, RET, JP, CALL, the register skips, JP V0 (spec/40_control_flow.md).

Every meaning takes the state with pc = pc0, the instruction's own address; `State.advance` is the
advance of R58, after which pc = pc0 + 2 as the rules read it (notes/assumptions/11.md). -/

namespace Sys2Proof.Machine

/-- SYS NNN (R100). -/
def execSys (nnn : Addr) (s : State) : Result :=
  match s.cfg.sysPolicy with
  | .fault => .next (s.raiseAt (.sys nnn) .unsupportedOpcode none .decode)
  | .nop => .next s.advance

/-- RET (R101). -/
def execRet (s : State) : Result :=
  match s.advance.pop with
  | .ok (target, t) => .next (t.setPc target)
  | .error d => .next (s.raiseAt .ret .outOfBoundsAccess none d)

/-- JP NNN (R102). -/
def execJp (nnn : Addr) (s : State) : Result :=
  .next (s.advance.setPc (addrOf nnn))

/-- CALL NNN (R103). -/
def execCall (nnn : Addr) (s : State) : Result :=
  match s.advance.push s.advance.pc with
  | .ok t => .next (t.setPc (addrOf nnn))
  | .error d => .next (s.raiseAt (.call nnn) .outOfBoundsAccess none d)

/-- SE VX, KK (R104). -/
def execSeImm (x : RegIx) (kk : Byte) (s : State) : Result :=
  .next (s.advance.skipIf (s.reg x == kk))

/-- SNE VX, KK (R105). -/
def execSneImm (x : RegIx) (kk : Byte) (s : State) : Result :=
  .next (s.advance.skipIf (s.reg x != kk))

/-- SE VX, VY (R106). -/
def execSeReg (x y : RegIx) (s : State) : Result :=
  .next (s.advance.skipIf (s.reg x == s.reg y))

/-- SNE VX, VY (R107). -/
def execSneReg (x y : RegIx) (s : State) : Result :=
  .next (s.advance.skipIf (s.reg x != s.reg y))

/-- JP V0, NNN (R108): a 16-bit sum, not reduced to 12 bits. -/
def execJpV0 (nnn : Addr) (s : State) : Result :=
  .next (s.advance.setPc (wide (s.reg 0x0#4) + addrOf nnn))

end Sys2Proof.Machine
end

