-- ==== Sys2Proof/Machine/Display.lean ====
section
/-! DEFINITION. The XOR-collision sprite engine, CLS and DRW (spec/42_display.md). -/

namespace Sys2Proof.Machine

/-! ## draw_sprite (R141)

The accumulator is the grid so far and whether some pixel has gone from on to off. -/

/-- A column reduced modulo 64 (R143). -/
def wrapX (n : Nat) : Fin 64 := ⟨n % 64, Nat.mod_lt n (by decide)⟩

/-- A row reduced modulo 32 (R143). -/
def wrapY (n : Nat) : Fin 32 := ⟨n % 32, Nat.mod_lt n (by decide)⟩

/-- One bit of a sprite at column `c` of row `r`: XOR at ((x + c) mod 64, (y + r) mod 32). -/
def drawBit (x y r c : Nat) (bit : Bool) (acc : Framebuffer × Bool) : Framebuffer × Bool :=
  (acc.1.setPixel (wrapX (x + c)) (wrapY (y + r))
      (acc.1.pixel (wrapX (x + c)) (wrapY (y + r)) ^^ bit),
    acc.2 || (bit && acc.1.pixel (wrapX (x + c)) (wrapY (y + r))))

/-- The bits of one row from column `c` on, the next `n` of them; column c is bit 7 - c. -/
def drawCols (x y r : Nat) (b : Byte) : Nat → Nat → Framebuffer × Bool → Framebuffer × Bool
  | _, 0, acc => acc
  | c, n + 1, acc => drawCols x y r b (c + 1) n (drawBit x y r c (b.getLsbD (7 - c)) acc)

/-- The rows of a sprite from row `r` on. -/
def drawRows (x y : Nat) : Nat → List Byte → Framebuffer × Bool → Framebuffer × Bool
  | _, [], acc => acc
  | r, b :: bs, acc => drawRows x y (r + 1) bs (drawCols x y r b 0 8 acc)

/-- draw_sprite(x, y, bytes) of R141: the new grid and the collision. -/
def drawSprite (fb : Framebuffer) (x y : Nat) (bytes : List Byte) : Framebuffer × Bool :=
  drawRows x y 0 bytes (fb, false)

/-! ## The instructions -/

/-- CLS (R140). -/
def execCls (s : State) : Result :=
  .next (s.advance.setFb Framebuffer.clear)

/-- DRW VX, VY, N (R142): the coordinates and all N bytes are read before a pixel or VF changes; N = 0
reads nothing and clears VF (R145). -/
def execDrw (x y : RegIx) (n : Nibble) (s : State) : Result :=
  match rangeFault s.index.toNat n.toNat with
  | some a => .next (s.raiseAt (.drw x y n) .outOfBoundsAccess (some a) .read)
  | none =>
    .next ((s.advance.setFb
        (drawSprite s.fb (s.reg x).toNat (s.reg y).toNat (s.mem.readBytes s.index.toNat n.toNat)).1).setReg regF
        (flagByte (drawSprite s.fb (s.reg x).toNat (s.reg y).toNat (s.mem.readBytes s.index.toNat n.toNat)).2))

end Sys2Proof.Machine
end

