-- ==== Sys2Proof/Machine/IndexMemory.lean ====
section
/-! DEFINITION. The index register, the font address, BCD, register dump and load (spec/44_index_memory.md). The
three that access memory check every address before the first write (R187). -/

namespace Sys2Proof.Machine

/-- LD I, NNN (R180). -/
def execLdI (nnn : Addr) (s : State) : Result :=
  .next (s.advance.setIndex (addrOf nnn))

/-- ADD I, VX (R181): mod 2^16, no flag. -/
def execAddI (x : RegIx) (s : State) : Result :=
  .next (s.advance.setIndex (s.index + wide (s.reg x)))

/-- LD F, VX (R182). -/
def execLdF (x : RegIx) (s : State) : Result :=
  .next (s.advance.setIndex (glyphAddress (s.reg x)))

/-- LD B, VX (R184). -/
def execLdB (x : RegIx) (s : State) : Result :=
  match rangeFault s.index.toNat 3 with
  | some a => .next (s.raiseAt (.ldB x) .outOfBoundsAccess (some a) .write)
  | none => .next (s.advance.store s.index.toNat (bcdDigits (s.reg x)))

/-- LD [I], VX (R185): V0 at I to VX at I + X. -/
def execLdMemX (x : RegIx) (s : State) : Result :=
  match rangeFault s.index.toNat (x.toNat + 1) with
  | some a => .next (s.raiseAt (.ldMemX x) .outOfBoundsAccess (some a) .write)
  | none => .next ((s.advance.store s.index.toNat (s.regsUpTo x)).bumpIndex x)

/-- LD VX, [I] (R186): V0 from I to VX from I + X. -/
def execLdXMem (x : RegIx) (s : State) : Result :=
  match rangeFault s.index.toNat (x.toNat + 1) with
  | some a => .next (s.raiseAt (.ldXMem x) .outOfBoundsAccess (some a) .read)
  | none => .next ((s.advance.setRegsFrom 0 (s.mem.readBytes s.index.toNat (x.toNat + 1))).bumpIndex x)

end Sys2Proof.Machine
end

