-- ==== Sys2Proof/Machine/KeypadTimers.lean ====
section
/-! DEFINITION. The keypad and timer instructions (spec/43_keypad_timers.md). -/

namespace Sys2Proof.Machine

/-- SKP VX (R160), with the key-index check of R166. -/
def execSkp (x : RegIx) (s : State) : Result :=
  match keyIndex (s.reg x) with
  | some k => .next (s.advance.skipIf (s.keyDown k))
  | none => .next (s.raiseAt (.skp x) .outOfBoundsAccess (some (s.reg x).toNat) .keyIndex)

/-- SKNP VX (R161), with the key-index check of R166. -/
def execSknp (x : RegIx) (s : State) : Result :=
  match keyIndex (s.reg x) with
  | some k => .next (s.advance.skipIf (!s.keyDown k))
  | none => .next (s.raiseAt (.sknp x) .outOfBoundsAccess (some (s.reg x).toNat) .keyIndex)

/-- LD VX, DT (R162). -/
def execLdXDt (x : RegIx) (s : State) : Result :=
  .next (s.advance.setReg x s.dt)

/-- LD VX, K (R163): with no key pressed the block waits; else it completes at once with KEYWAIT_PICK. -/
def execLdXK (x : RegIx) (s : State) : Result :=
  match s.pickKey with
  | none => .next (s.advance.setWait (some x))
  | some k => .next (s.advance.setReg x (k.setWidth 8))

/-- LD DT, VX (R164). -/
def execLdDtX (x : RegIx) (s : State) : Result :=
  .next (s.advance.setDt (s.reg x))

/-- LD ST, VX (R165). -/
def execLdStX (x : RegIx) (s : State) : Result :=
  .next (s.advance.setSt (s.reg x))

end Sys2Proof.Machine
end

