-- ==== Sys2Proof/Machine/Cycle.lean ====
section
/-! DEFINITION. The host operations (spec/60_exceptions.md R215): cycle (spec/10_state.md R40), the timers, the keypad,
load_binary, the two reads; the boot (spec/70_reset_and_hazards.md R242). -/

namespace Sys2Proof.Machine

/-! ## cycle() (R40) -/

/-- Fetch, decode, execute for a block that is neither FAULTED nor halted, in the order of R205. -/
def fetchExecute (s : State) : Result :=
  match s.fetch with
  | .error a => .next (s.raise .outOfBoundsAccess (some s.pc) none (some a) .fetch)
  | .ok w =>
    match decode s.cfg.strictDecode w with
    | .instr i => exec i s
    | .unsupported => .next (s.raise .unsupportedOpcode (some s.pc) (some w) none .decode)
    | .truncated => .next (s.raise .unsupportedOpcode (some s.pc) (some w) none .decode)

/-- cycle() of R40: no step for a FAULTED block (R207); else `started`, and nothing more while halted. -/
def cycle (s : State) : Result :=
  match s.fault with
  | some r => .fault (.faulted r)
  | none => if s.halted then .next s.start else fetchExecute s.start

/-! ## Timers (R217) -/

/-- One down, never below 0. -/
def countDown (b : Byte) : Byte := if b = 0x00#8 then 0x00#8 else b - 1

/-- tick_timers() of R217. -/
def State.tickTimers (s : State) : State := (s.setDt (countDown s.dt)).setSt (countDown s.st)

/-! ## Keypad (R219, R220) -/

/-- The completion of a key-wait by key `k` (R220); nothing when the block is not halted. -/
def State.completeWait (s : State) (k : Nibble) : State :=
  match s.waitReg with
  | some x => (s.setReg x (k.setWidth 8)).setWait none
  | none => s

/-- press(k) of R219: k > 15 is an interface error and changes nothing (D28, notes/assumptions/12.md). -/
def State.press (s : State) (k : Nat) : State :=
  if 15 < k then s else (s.setKey (BitVec.ofNat 4 k) true).completeWait (BitVec.ofNat 4 k)

/-- release(k) of R219: never completes a wait (R220). -/
def State.release (s : State) (k : Nat) : State :=
  if 15 < k then s else s.setKey (BitVec.ofNat 4 k) false

/-! ## load_binary (R52, R204) -/

/-- load_binary(data, offset) of R52: refused with no move once started or FAULTED (D27,
notes/assumptions/12.md); a load that does not fit writes nothing and raises ResourceLoadFailure. -/
def State.loadBinary (s : State) (data : List Byte) (offset : Nat) : State :=
  if s.started || s.fault.isSome then s
  else if memSize < offset + data.length then s.raise .resourceLoadFailure none none (some offset) .load
  else s.store offset data

/-! ## The reads (R221, R222) -/

/-- What read_status() returns (R221). -/
structure Status where
  halted : Bool
  runStatus : RunStatus
  fault : Option FaultRecord
  soundActive : Bool
  deriving DecidableEq, Repr

/-- read_status() of R221. -/
def State.readStatus (s : State) : Status where
  halted := s.halted
  runStatus := s.runStatus
  fault := s.fault
  soundActive := s.soundActive

/-- read_framebuffer() of R222: the pixels in row-major order. -/
def State.readFramebuffer (s : State) : List Bool := s.fb.toList.flatMap (fun row => row.toList)

/-! ## One host operation (R215, R216) -/

/-- An operation that a FAULTED block has no step for (R207) and that otherwise always makes its move. -/
def unlessFaulted (f : State → State) (s : State) : Result :=
  match s.fault with
  | some r => .fault (.faulted r)
  | none => .next (f s)

/-- One host operation as one atomic step (R215). The reads change nothing and answer even when FAULTED. -/
def perform (op : HostOp) (s : State) : Result :=
  match op with
  | .cycle => cycle s
  | .tickTimers => unlessFaulted State.tickTimers s
  | .press k => unlessFaulted (fun t => t.press k) s
  | .release k => unlessFaulted (fun t => t.release k) s
  | .loadBinary data offset => unlessFaulted (fun t => t.loadBinary data offset) s
  | .readStatus => .next s
  | .readFramebuffer => .next s

/-- The next operation of the host: the first of its schedule, or cycle() when it has none
(R216, notes/assumptions/3.md). -/
def hostStep (s : State) : Result :=
  match s.schedule with
  | [] => cycle s
  | op :: rest => perform op (s.setSchedule rest)

/-! ## Boot (R242) -/

/-- PROGRAM_BASE of R7, also the initial PC. -/
def programBase : Nat := 0x200

/-- FONT_BASE of R7. -/
def fontBase : Nat := 0x000

/-- Steps 1 to 3 of the boot sequence of R242: construction, the font, the program. -/
def State.boot (c : Config) (d : ResetValues) (program : List Byte) : State :=
  ((State.construct c d).loadBinary c.fontImage fontBase).loadBinary program programBase

/-! ## Placing one instruction, for the host -/

/-- A state whose next step is a cycle that fetches: no host operation pending, not FAULTED, not halted,
and a pc with two bytes below 4096 (notes/assumptions/8.md). -/
def State.readyToFetch (s : State) : State :=
  { s with schedule := [], fault := none, waitReg := none,
           pc := if s.pc.toNat + 1 < memSize then s.pc else BitVec.ofNat 16 programBase }

end Sys2Proof.Machine
end

