-- ==== Sys2Proof/Machine/Step.lean ====
section
/-! DEFINITION. One step of the block: one host operation (spec/00_scope.md R3, spec/60_exceptions.md R216). -/

namespace Sys2Proof.Machine

/-- One step. -/
def step (s : State) : Host.Outcome State Fault Refusal := hostStep s

/-- `s` with the instruction of the bits `w` stored where the next step fetches. -/
def State.withFetchWord (s : State) (nbits w : Nat) : State :=
  s.readyToFetch.store s.readyToFetch.pc.toNat (tableBytes nbits w)

end Sys2Proof.Machine
end

