-- ==== Sys2Proof/Machine/Run.lean ====
section
/-! DEFINITION. Unending runs under a host that chooses every operation (spec/60_exceptions.md R216), and the fairness
assumptions on the host (spec/70_reset_and_hazards.md R254). -/

namespace Sys2Proof.Machine

/-- The host of an unending run: the operation it calls at each point, any operation at any point (R216). -/
abbrev HostTrace := Nat → HostOp

/-- One step in which the host calls `op`, whatever was scheduled: the host's choice as a parameter of the
step (R43, notes/assumptions/17.md). -/
def stepUnder (op : HostOp) (s : State) : Result := step (s.setSchedule [op])

/-- The states of an unending run of the block under a host. A FAULTED block has no step for most operations
(R207), so no such run stays FAULTED under a host that ticks or cycles again. -/
def IsRun (host : HostTrace) (run : Nat → State) : Prop := ∀ n : Nat, stepUnder (host n) (run n) = .next (run (n + 1))

/-- Fairness for claims about the timers: the host calls tick_timers() infinitely often (R254). An
assumption a claim may make on the host, no rule of the machine. -/
def TicksForever (host : HostTrace) : Prop := ∀ n : Nat, ∃ m : Nat, n ≤ m ∧ host m = .tickTimers

/-- Fairness for claims about the program's progress: the host calls cycle() infinitely often (R254). An
assumption a claim may make on the host, no rule of the machine. -/
def CyclesForever (host : HostTrace) : Prop := ∀ n : Nat, ∃ m : Nat, n ≤ m ∧ host m = .cycle

end Sys2Proof.Machine
end

