-- ==== Sys2Proof/Safety.lean ====
section
/-! DEFINITION. The terms claims are stated in: what a step keeps, how an instruction faults, the invariants of the block. -/

namespace Sys2Proof.Machine

/-! ## Decoding -/

/-- A word decodes to an instruction under either value of STRICT_DECODE (R75). -/
def Decodes (w : Word) (i : Instr) : Prop := ∀ strict : Bool, decode strict w = .instr i

/-! ## Frames -/

/-- The parts of the block's state an instruction may change, PC apart. -/
inductive Part where
  | registers
  | indexRegister
  | stackPointer
  | stackEntries
  | delayTimer
  | soundTimer
  | memory
  | screen
  | keypad
  | waitRegister
  | faultRecord
  | randomDraws
  deriving DecidableEq, Repr

/-- A part reads in `t` as it read in `s`: every register, every stack entry, every byte of memory, every
pixel, every key. -/
def SamePart (s t : State) : Part → Prop
  | .registers => ∀ j : RegIx, t.reg j = s.reg j
  | .indexRegister => t.index = s.index
  | .stackPointer => t.sp = s.sp
  | .stackEntries => ∀ j : Nibble, t.stackAt j = s.stackAt j
  | .delayTimer => t.dt = s.dt
  | .soundTimer => t.st = s.st
  | .memory => ∀ a : Nat, t.memRead a = s.memRead a
  | .screen => ∀ (x : Fin 64) (y : Fin 32), t.pixel x y = s.pixel x y
  | .keypad => ∀ k : Nibble, t.keyDown k = s.keyDown k
  | .waitRegister => t.waitReg = s.waitReg
  | .faultRecord => t.fault = s.fault
  | .randomDraws => t.draws = s.draws

/-- Every part but the listed ones is the same, and so are `started`, the configuration and the host's
schedule. PC is left open. -/
def KeptBut (changed : List Part) (s t : State) : Prop :=
  (∀ p : Part, p ∉ changed → SamePart s t p) ∧ t.started = s.started ∧ t.cfg = s.cfg ∧ t.schedule = s.schedule

/-- Every register but the listed ones is the same. -/
def RegsKeptBut (changed : List RegIx) (s t : State) : Prop := ∀ j : RegIx, j ∉ changed → t.reg j = s.reg j

/-- Every byte of memory but the `n` from address `a` up reads as before. -/
def BytesKeptOutside (a n : Nat) (s t : State) : Prop := ∀ b : Nat, (b < a ∨ a + n ≤ b) → t.memRead b = s.memRead b

/-! ## Faulting -/

/-- The instruction raises a fault and changes nothing but the fault record (R203, R206). -/
def FaultsWith (i : Instr) (s : State) (kind : FaultKind) (opcode : Word) (address : Option Nat) (detail : FaultDetail) : Prop :=
  exec i s = .next { s with fault := some { kind := kind, pc := some s.pc, opcode := some opcode, address := address, detail := detail } }

/-- The state differs from `s` in no more than `started`, the fault record and the host's schedule. -/
def OnlyFaulted (s t : State) : Prop :=
  t = { s with started := t.started, fault := t.fault, schedule := t.schedule }

/-- What OR, AND and XOR leave (R124 to R126): the result in V[x], VF cleared only under LOGIC_VF_RESET,
everything else as it was. -/
def LogicOutcome (x : RegIx) (result : Byte) (s t : State) : Prop :=
  t.pc = s.pc + 2 ∧
  (∀ j : RegIx, t.reg j = if s.cfg.logicVfReset = true ∧ j = regF then 0x00#8 else if j = x then result else s.reg j) ∧
  KeptBut [.registers] s t

/-- What the flag-writing ALU instructions leave (R120): the result in V[x] unless x is VF, the flag in VF,
everything else as it was. Result and flag are given as numbers. -/
def FlagOutcome (x : RegIx) (result flag : Nat) (s t : State) : Prop :=
  t.pc = s.pc + 2 ∧ (x ≠ regF → (t.reg x).toNat = result) ∧ (t.reg regF).toNat = flag ∧
  RegsKeptBut [x, regF] s t ∧ KeptBut [.registers] s t

/-! ## Which instructions write what -/

/-- The instructions that write VF as a flag (R21). -/
def writesFlag (c : Config) : Instr → Bool
  | .addReg _ _ | .subReg _ _ | .shr _ _ | .subn _ _ | .shl _ _ | .drw _ _ _ => true
  | .orReg _ _ | .andReg _ _ | .xorReg _ _ => c.logicVfReset
  | .sys _ | .cls | .ret | .jp _ | .call _ | .seImm _ _ | .sneImm _ _ | .seReg _ _ | .ldImm _ _ | .addImm _ _
  | .ldReg _ _ | .sneReg _ _ | .ldI _ | .jpV0 _ | .rnd _ _ | .skp _ | .sknp _ | .ldXDt _ | .ldXK _ | .ldDtX _
  | .ldStX _ | .addI _ | .ldF _ | .ldB _ | .ldMemX _ | .ldXMem _ => false

/-- The registers an instruction names as destinations; FX65 loads V0 to VX (R186). -/
def isDestination (j : RegIx) : Instr → Bool
  | .ldImm x _ | .addImm x _ | .ldReg x _ | .orReg x _ | .andReg x _ | .xorReg x _ | .addReg x _ | .subReg x _
  | .shr x _ | .subn x _ | .shl x _ | .rnd x _ | .ldXDt x | .ldXK x => j == x
  | .ldXMem x => decide (j.toNat ≤ x.toNat)
  | .sys _ | .cls | .ret | .jp _ | .call _ | .seImm _ _ | .sneImm _ _ | .seReg _ _ | .sneReg _ _ | .ldI _ | .jpV0 _
  | .drw _ _ _ | .skp _ | .sknp _ | .ldDtX _ | .ldStX _ | .addI _ | .ldF _ | .ldB _ | .ldMemX _ => false

/-! ## The invariants of the block -/

/-- A fault record is one of the causes of R201, R202 and R204. -/
def FaultRecord.Ok (r : FaultRecord) : Prop :=
  match r.detail with
  | .fetch => r.kind = .outOfBoundsAccess ∧ r.pc.isSome ∧ r.opcode = none ∧ ∃ a, r.address = some a ∧ memSize ≤ a
  | .read => r.kind = .outOfBoundsAccess ∧ r.pc.isSome ∧ r.opcode.isSome ∧ ∃ a, r.address = some a ∧ memSize ≤ a
  | .write => r.kind = .outOfBoundsAccess ∧ r.pc.isSome ∧ r.opcode.isSome ∧ ∃ a, r.address = some a ∧ memSize ≤ a
  | .stackOverflow => r.kind = .outOfBoundsAccess ∧ r.pc.isSome ∧ r.opcode.isSome ∧ r.address = none
  | .stackUnderflow => r.kind = .outOfBoundsAccess ∧ r.pc.isSome ∧ r.opcode.isSome ∧ r.address = none
  | .keyIndex => r.kind = .outOfBoundsAccess ∧ r.pc.isSome ∧ r.opcode.isSome ∧ ∃ k, r.address = some k ∧ 15 < k ∧ k < 256
  | .decode => r.kind = .unsupportedOpcode ∧ r.pc.isSome ∧ r.opcode.isSome ∧ r.address = none
  | .load => r.kind = .resourceLoadFailure ∧ r.pc = none ∧ r.opcode = none ∧ r.address.isSome

/-- What every reachable state of the block keeps. -/
structure Inv (s : State) : Prop where
  /-- MEM is in its canonical form. -/
  memory : s.mem.wf = true
  /-- SP holds the number of entries in use, 0 to 16 (R28). -/
  stack : s.sp.toNat ≤ stackDepth
  /-- The largest PC any instruction leaves is 0x10FE (R25). -/
  pc : s.pc.toNat ≤ 0x10FE
  /-- Every return address in use was pushed by a CALL fetched below 0x0FFF (R58, R103). -/
  returns : ∀ j : Nibble, j.toNat < s.sp.toNat → (s.stackAt j).toNat ≤ 0x1000
  /-- Only a block that has run a cycle waits for a key (R38, R163). -/
  waiting : s.halted = true → s.started = true
  /-- FAULTED and HALTED_AWAITING_KEY exclude each other (R36). -/
  status : s.fault.isSome = true → s.halted = false
  /-- The fault record is one of the causes the spec lists (R201, R202, R204). -/
  record : ∀ r, s.fault = some r → r.Ok
  /-- The record's pc and the state describe the same point (R206). -/
  point : ∀ r p, s.fault = some r → r.pc = some p → p = s.pc
  /-- ResourceLoadFailure occurs only before the first cycle (R204). -/
  load : ∀ r, s.fault = some r → r.kind = .resourceLoadFailure → s.started = false

end Sys2Proof.Machine
end

