-- ==== Sys2Proof/Certificates/Slice0/Obligations.lean ====
section
/-! DEFINITION. The statements for the provers, each from a rule of spec/. Every per-instruction statement says that
exec answers a next state, what that state holds, and what it keeps (KeptBut is its frame). -/

open Sys2Proof Sys2Proof.Machine

/-! ## Control flow (spec/40_control_flow.md) -/

/-- R100: SYS raises UnsupportedOpcode under SYS_POLICY = fault, the default, and only advances under nop. -/
def Obligations.SysFaultsOrActsAsNop : Prop :=
  Config.default.sysPolicy = .fault ∧
  (∀ nnn : Addr, nnn ≠ 0x0E0#12 → nnn ≠ 0x0EE#12 → Decodes (encA 0x0 nnn) (.sys nnn)) ∧
  ∀ (nnn : Addr) (s : State),
    (s.cfg.sysPolicy = .fault → FaultsWith (.sys nnn) s .unsupportedOpcode (encA 0x0 nnn) none .decode) ∧
    (s.cfg.sysPolicy = .nop → ∃ t, exec (.sys nnn) s = .next t ∧ t.pc = s.pc + 2 ∧ KeptBut [] s t)

/-- R101: RET pops pc; with SP = 0 it faults. (SP above 16 is ruled out by Inv.) -/
def Obligations.RetPopsTheReturnAddress : Prop :=
  Decodes 0x00EE#16 .ret ∧
  ∀ s : State,
    (1 ≤ s.sp.toNat → s.sp.toNat ≤ 16 → ∃ t, exec .ret s = .next t ∧
      t.pc = s.stackAt (BitVec.ofNat 4 (s.sp.toNat - 1)) ∧ t.sp.toNat = s.sp.toNat - 1 ∧ KeptBut [.stackPointer] s t) ∧
    (s.sp.toNat = 0 → FaultsWith .ret s .outOfBoundsAccess 0x00EE#16 none .stackUnderflow)

/-- R102: JP sets pc to NNN; a target of 0xFFF makes the next fetch fail on 0x1000. -/
def Obligations.JpSetsThePc : Prop :=
  (∀ nnn : Addr, Decodes (encA 0x1 nnn) (.jp nnn)) ∧
  ∀ (nnn : Addr) (s : State), ∃ t, exec (.jp nnn) s = .next t ∧ t.pc.toNat = nnn.toNat ∧ KeptBut [] s t ∧
    (nnn = 0xFFF#12 → t.fetch = .error 0x1000)

/-- R103: CALL pushes pc0 + 2 and jumps; with SP = 16 it faults. (SP above 16 is ruled out by Inv.) -/
def Obligations.CallPushesTheReturnAddress : Prop :=
  (∀ nnn : Addr, Decodes (encA 0x2 nnn) (.call nnn)) ∧
  ∀ (nnn : Addr) (s : State),
    (s.sp.toNat < 16 → ∃ t, exec (.call nnn) s = .next t ∧ t.pc.toNat = nnn.toNat ∧ t.sp.toNat = s.sp.toNat + 1 ∧
      t.stackAt (BitVec.ofNat 4 s.sp.toNat) = s.pc + 2 ∧
      (∀ j : Nibble, j.toNat ≠ s.sp.toNat → t.stackAt j = s.stackAt j) ∧ KeptBut [.stackPointer, .stackEntries] s t) ∧
    (s.sp.toNat = 16 → FaultsWith (.call nnn) s .outOfBoundsAccess (encA 0x2 nnn) none .stackOverflow)

/-- R104, R105: the skips that compare with an immediate. -/
def Obligations.ImmediateSkips : Prop :=
  (∀ (x : RegIx) (kk : Byte), Decodes (encR 0x3 x kk) (.seImm x kk) ∧ Decodes (encR 0x4 x kk) (.sneImm x kk)) ∧
  ∀ (x : RegIx) (kk : Byte) (s : State),
    (∃ t, exec (.seImm x kk) s = .next t ∧ t.pc = (if s.reg x = kk then s.pc + 4 else s.pc + 2) ∧ KeptBut [] s t) ∧
    (∃ t, exec (.sneImm x kk) s = .next t ∧ t.pc = (if s.reg x ≠ kk then s.pc + 4 else s.pc + 2) ∧ KeptBut [] s t)

/-- R106, R107: the skips that compare two registers, and the low nibble STRICT_DECODE asks of them. -/
def Obligations.RegisterSkips : Prop :=
  (∀ x y : RegIx, Decodes (encRR 0x5 x y 0x0) (.seReg x y) ∧ Decodes (encRR 0x9 x y 0x0) (.sneReg x y)) ∧
  (∀ (x y : RegIx) (n : Nibble), n ≠ 0x0#4 →
    decode true (encRR 0x5 x y n) = .unsupported ∧ decode true (encRR 0x9 x y n) = .unsupported) ∧
  ∀ (x y : RegIx) (s : State),
    (∃ t, exec (.seReg x y) s = .next t ∧ t.pc = (if s.reg x = s.reg y then s.pc + 4 else s.pc + 2) ∧ KeptBut [] s t) ∧
    (∃ t, exec (.sneReg x y) s = .next t ∧ t.pc = (if s.reg x ≠ s.reg y then s.pc + 4 else s.pc + 2) ∧ KeptBut [] s t)

/-- R108: JP V0 jumps to V0 + NNN, not reduced to 12 bits; a sum of 0xFFF or more makes the next fetch fail. -/
def Obligations.JpV0AddsV0 : Prop :=
  (∀ nnn : Addr, Decodes (encA 0xB nnn) (.jpV0 nnn)) ∧
  ∀ (nnn : Addr) (s : State), ∃ t, exec (.jpV0 nnn) s = .next t ∧ t.pc.toNat = (s.reg 0x0#4).toNat + nnn.toNat ∧
    KeptBut [] s t ∧ (0xFFF ≤ (s.reg 0x0#4).toNat + nnn.toNat → ∃ a, t.fetch = .error a)

/-! ## Loads and ALU (spec/41_alu.md) -/

/-- R121: LD VX, KK. -/
def Obligations.LoadImmediate : Prop :=
  (∀ (x : RegIx) (kk : Byte), Decodes (encR 0x6 x kk) (.ldImm x kk)) ∧
  ∀ (x : RegIx) (kk : Byte) (s : State), ∃ t, exec (.ldImm x kk) s = .next t ∧ t.pc = s.pc + 2 ∧
    t.reg x = kk ∧ RegsKeptBut [x] s t ∧ KeptBut [.registers] s t

/-- R122: ADD VX, KK wraps modulo 256 and writes no flag. -/
def Obligations.AddImmediate : Prop :=
  (∀ (x : RegIx) (kk : Byte), Decodes (encR 0x7 x kk) (.addImm x kk)) ∧
  ∀ (x : RegIx) (kk : Byte) (s : State), ∃ t, exec (.addImm x kk) s = .next t ∧ t.pc = s.pc + 2 ∧
    (t.reg x).toNat = ((s.reg x).toNat + kk.toNat) % 256 ∧ RegsKeptBut [x] s t ∧ KeptBut [.registers] s t

/-- R123: LD VX, VY. -/
def Obligations.LoadRegister : Prop :=
  (∀ x y : RegIx, Decodes (encRR 0x8 x y 0x0) (.ldReg x y)) ∧
  ∀ (x y : RegIx) (s : State), ∃ t, exec (.ldReg x y) s = .next t ∧ t.pc = s.pc + 2 ∧
    t.reg x = s.reg y ∧ RegsKeptBut [x] s t ∧ KeptBut [.registers] s t

/-- R124, R125, R126: OR, AND, XOR, and VF only under LOGIC_VF_RESET, which is off by default. -/
def Obligations.LogicOperations : Prop :=
  Config.default.logicVfReset = false ∧
  (∀ x y : RegIx, Decodes (encRR 0x8 x y 0x1) (.orReg x y) ∧ Decodes (encRR 0x8 x y 0x2) (.andReg x y) ∧
    Decodes (encRR 0x8 x y 0x3) (.xorReg x y)) ∧
  ∀ (x y : RegIx) (s : State),
    (∃ t, exec (.orReg x y) s = .next t ∧ LogicOutcome x (s.reg x ||| s.reg y) s t) ∧
    (∃ t, exec (.andReg x y) s = .next t ∧ LogicOutcome x (s.reg x &&& s.reg y) s t) ∧
    (∃ t, exec (.xorReg x y) s = .next t ∧ LogicOutcome x (s.reg x ^^^ s.reg y) s t)

/-- R127: ADD VX, VY with the carry in VF. -/
def Obligations.AddWithCarry : Prop :=
  (∀ x y : RegIx, Decodes (encRR 0x8 x y 0x4) (.addReg x y)) ∧
  ∀ (x y : RegIx) (s : State), ∃ t, exec (.addReg x y) s = .next t ∧
    FlagOutcome x (((s.reg x).toNat + (s.reg y).toNat) % 256)
      (if 255 < (s.reg x).toNat + (s.reg y).toNat then 1 else 0) s t

/-- R128, R130: SUB and SUBN with not-borrow in VF. -/
def Obligations.SubtractWithNotBorrow : Prop :=
  (∀ x y : RegIx, Decodes (encRR 0x8 x y 0x5) (.subReg x y) ∧ Decodes (encRR 0x8 x y 0x7) (.subn x y)) ∧
  ∀ (x y : RegIx) (s : State),
    (∃ t, exec (.subReg x y) s = .next t ∧
      FlagOutcome x ((256 + (s.reg x).toNat - (s.reg y).toNat) % 256)
        (if (s.reg y).toNat ≤ (s.reg x).toNat then 1 else 0) s t) ∧
    (∃ t, exec (.subn x y) s = .next t ∧
      FlagOutcome x ((256 + (s.reg y).toNat - (s.reg x).toNat) % 256)
        (if (s.reg x).toNat ≤ (s.reg y).toNat then 1 else 0) s t)

/-- R129, R131: the shifts by one of the register SHIFT_SOURCE names, with the bit shifted out in VF. -/
def Obligations.ShiftsByOne : Prop :=
  (∀ x y : RegIx, Decodes (encRR 0x8 x y 0x6) (.shr x y) ∧ Decodes (encRR 0x8 x y 0xE) (.shl x y)) ∧
  Config.default.shiftSource = .vx ∧
  ∀ (x y src : RegIx) (s : State), src = (if s.cfg.shiftSource = .vx then x else y) →
    (∃ t, exec (.shr x y) s = .next t ∧ FlagOutcome x ((s.reg src).toNat / 2) ((s.reg src).toNat % 2) s t) ∧
    (∃ t, exec (.shl x y) s = .next t ∧ FlagOutcome x ((s.reg src).toNat * 2 % 256) ((s.reg src).toNat / 128) s t)

/-- R132, R224: RND draws one fresh byte of the oracle and masks it; a bit outside KK is 0. The byte is a
free value, so this holds for every oracle; the draw counter is the model's own (notes/assumptions/4.md). -/
def Obligations.RandomByteIsMasked : Prop :=
  (∀ (x : RegIx) (kk : Byte), Decodes (encR 0xC x kk) (.rnd x kk)) ∧
  ∀ (x : RegIx) (kk : Byte) (s : State), ∃ t, exec (.rnd x kk) s = .next t ∧ t.pc = s.pc + 2 ∧
    t.reg x = Config.rand8 s.draws &&& kk ∧ t.draws = s.draws + 1 ∧
    (∀ b : Nat, kk.getLsbD b = false → (t.reg x).getLsbD b = false) ∧
    RegsKeptBut [x] s t ∧ KeptBut [.registers, .randomDraws] s t

/-! ## Display (spec/42_display.md) -/

/-- R140: CLS. -/
def Obligations.ClsTurnsEveryPixelOff : Prop :=
  Decodes 0x00E0#16 .cls ∧
  ∀ s : State, ∃ t, exec .cls s = .next t ∧ t.pc = s.pc + 2 ∧
    (∀ (px : Fin 64) (py : Fin 32), t.pixel px py = false) ∧ KeptBut [.screen] s t

/-- R141, R142, R145: DRW XORs each bit of the N bytes at I into the pixel at
((VX + c) mod 64, (VY + r) mod 32), touches no other pixel, sets VF exactly when some bit met a pixel that
was on, and faults with no change when a byte lies at 4096 or above. -/
def Obligations.DrwXorsTheSprite : Prop :=
  (∀ (x y : RegIx) (n : Nibble), Decodes (encRR 0xD x y n) (.drw x y n)) ∧
  ∀ (x y : RegIx) (n : Nibble) (s : State),
    (n.toNat = 0 ∨ s.index.toNat + n.toNat ≤ 4096 → ∃ t, exec (.drw x y n) s = .next t ∧ t.pc = s.pc + 2 ∧
      (∀ r c : Nat, r < n.toNat → c < 8 →
        t.pixel (wrapX ((s.reg x).toNat + c)) (wrapY ((s.reg y).toNat + r)) =
          (s.pixel (wrapX ((s.reg x).toNat + c)) (wrapY ((s.reg y).toNat + r)) ^^
            (s.mem.read (s.index.toNat + r)).getLsbD (7 - c))) ∧
      (∀ (px : Fin 64) (py : Fin 32),
        (∀ r c : Nat, r < n.toNat → c < 8 →
          ¬ (px = wrapX ((s.reg x).toNat + c) ∧ py = wrapY ((s.reg y).toNat + r))) →
        t.pixel px py = s.pixel px py) ∧
      ((∃ r c : Nat, r < n.toNat ∧ c < 8 ∧ (s.mem.read (s.index.toNat + r)).getLsbD (7 - c) = true ∧
          s.pixel (wrapX ((s.reg x).toNat + c)) (wrapY ((s.reg y).toNat + r)) = true) → t.reg regF = 1#8) ∧
      ((¬ ∃ r c : Nat, r < n.toNat ∧ c < 8 ∧ (s.mem.read (s.index.toNat + r)).getLsbD (7 - c) = true ∧
          s.pixel (wrapX ((s.reg x).toNat + c)) (wrapY ((s.reg y).toNat + r)) = true) → t.reg regF = 0#8) ∧
      RegsKeptBut [regF] s t ∧ KeptBut [.registers, .screen] s t) ∧
    (n.toNat ≠ 0 → 4096 < s.index.toNat + n.toNat →
      FaultsWith (.drw x y n) s .outOfBoundsAccess (encRR 0xD x y n) (some (max s.index.toNat 4096)) .read)

/-- R146: drawing the same sprite twice at the same place restores the screen. That the second DRW reports a
collision exactly when the first one turned some pixel on is what R146 derives from R141. Where VX or VY is VF
and the first DRW changed it, the second one is at another place, and this says nothing of it. -/
def Obligations.DrawingTwiceRestoresTheScreen : Prop :=
  ∀ (x y : RegIx) (n : Nibble) (s : State), n.toNat = 0 ∨ s.index.toNat + n.toNat ≤ 4096 →
    ∃ t, exec (.drw x y n) s = .next t ∧
      (t.reg x = s.reg x → t.reg y = s.reg y →
        ∃ u, exec (.drw x y n) t = .next u ∧
          (∀ (px : Fin 64) (py : Fin 32), u.pixel px py = s.pixel px py) ∧
          (u.reg regF = 1#8 ↔ ∃ (px : Fin 64) (py : Fin 32), s.pixel px py = false ∧ t.pixel px py = true))

/-! ## Keypad and timers (spec/43_keypad_timers.md) -/

/-- R160, R161, R166: the key skips, and the fault of an index above 0xF. -/
def Obligations.KeySkips : Prop :=
  (∀ x : RegIx, Decodes (encRF 0xE x 0x9E) (.skp x) ∧ Decodes (encRF 0xE x 0xA1) (.sknp x)) ∧
  ∀ (x : RegIx) (s : State),
    ((s.reg x).toNat ≤ 0xF →
      (∃ t, exec (.skp x) s = .next t ∧
        t.pc = (if s.keyDown ((s.reg x).setWidth 4) = true then s.pc + 4 else s.pc + 2) ∧ KeptBut [] s t) ∧
      (∃ t, exec (.sknp x) s = .next t ∧
        t.pc = (if s.keyDown ((s.reg x).setWidth 4) = true then s.pc + 2 else s.pc + 4) ∧ KeptBut [] s t)) ∧
    (0xF < (s.reg x).toNat →
      FaultsWith (.skp x) s .outOfBoundsAccess (encRF 0xE x 0x9E) (some (s.reg x).toNat) .keyIndex ∧
      FaultsWith (.sknp x) s .outOfBoundsAccess (encRF 0xE x 0xA1) (some (s.reg x).toNat) .keyIndex)

/-- R162: LD VX, DT. -/
def Obligations.DelayTimerIsRead : Prop :=
  (∀ x : RegIx, Decodes (encRF 0xF x 0x07) (.ldXDt x)) ∧
  ∀ (x : RegIx) (s : State), ∃ t, exec (.ldXDt x) s = .next t ∧ t.pc = s.pc + 2 ∧
    t.reg x = s.dt ∧ RegsKeptBut [x] s t ∧ KeptBut [.registers] s t

/-- R163: LD VX, K waits when no key is pressed, and else stores KEYWAIT_PICK of the pressed keys at once:
the lowest by default. Under another choice function it is the model's free value Config.keywaitChoice where that
is a pressed key (notes/assumptions/5.md, DEDUCED). -/
def Obligations.KeyWaitStartsOrCompletes : Prop :=
  (∀ x : RegIx, Decodes (encRF 0xF x 0x0A) (.ldXK x)) ∧ Config.default.keywaitPick = .lowest ∧
  ∀ (x : RegIx) (s : State),
    ((∀ k : Nibble, s.keyDown k = false) → ∃ t, exec (.ldXK x) s = .next t ∧ t.pc = s.pc + 2 ∧
      t.waitReg = some x ∧ t.halted = true ∧ KeptBut [.waitRegister] s t) ∧
    ((∃ k : Nibble, s.keyDown k = true) → ∃ (t : State) (k : Nibble), exec (.ldXK x) s = .next t ∧ t.pc = s.pc + 2 ∧
      s.keyDown k = true ∧ (t.reg x).toNat = k.toNat ∧
      (s.cfg.keywaitPick = .lowest → ∀ j : Nibble, s.keyDown j = true → k.toNat ≤ j.toNat) ∧
      (s.cfg.keywaitPick = .chosen → s.keyDown (Config.keywaitChoice s.key) = true → k = Config.keywaitChoice s.key) ∧
      RegsKeptBut [x] s t ∧ KeptBut [.registers] s t)

/-- R164, R165: LD DT, VX and LD ST, VX. -/
def Obligations.TimersAreWritten : Prop :=
  (∀ x : RegIx, Decodes (encRF 0xF x 0x15) (.ldDtX x) ∧ Decodes (encRF 0xF x 0x18) (.ldStX x)) ∧
  ∀ (x : RegIx) (s : State),
    (∃ t, exec (.ldDtX x) s = .next t ∧ t.pc = s.pc + 2 ∧ t.dt = s.reg x ∧ KeptBut [.delayTimer] s t) ∧
    (∃ t, exec (.ldStX x) s = .next t ∧ t.pc = s.pc + 2 ∧ t.st = s.reg x ∧
      t.soundActive = decide (s.reg x ≠ 0#8) ∧ KeptBut [.soundTimer] s t)

/-! ## Index register and memory (spec/44_index_memory.md) -/

/-- R180, R181: LD I, NNN, and ADD I, VX modulo 2^16 with no flag. -/
def Obligations.IndexLoadAndAdd : Prop :=
  (∀ nnn : Addr, Decodes (encA 0xA nnn) (.ldI nnn)) ∧ (∀ x : RegIx, Decodes (encRF 0xF x 0x1E) (.addI x)) ∧
  (∀ (nnn : Addr) (s : State), ∃ t, exec (.ldI nnn) s = .next t ∧ t.pc = s.pc + 2 ∧
    t.index.toNat = nnn.toNat ∧ KeptBut [.indexRegister] s t) ∧
  (∀ (x : RegIx) (s : State), ∃ t, exec (.addI x) s = .next t ∧ t.pc = s.pc + 2 ∧
    t.index.toNat = (s.index.toNat + (s.reg x).toNat) % 65536 ∧ KeptBut [.indexRegister] s t)

/-- R182: LD F, VX sets I to 5 * VX, not masked. -/
def Obligations.GlyphAddress : Prop :=
  (∀ x : RegIx, Decodes (encRF 0xF x 0x29) (.ldF x)) ∧
  ∀ (x : RegIx) (s : State), ∃ t, exec (.ldF x) s = .next t ∧ t.pc = s.pc + 2 ∧
    t.index.toNat = 5 * (s.reg x).toNat ∧ KeptBut [.indexRegister] s t

/-- R184: LD B, VX stores the three digits at I, or faults with no change. -/
def Obligations.BcdDigitsAreStored : Prop :=
  (∀ x : RegIx, Decodes (encRF 0xF x 0x33) (.ldB x)) ∧
  ∀ (x : RegIx) (s : State),
    (s.index.toNat + 2 < 4096 → ∃ t, exec (.ldB x) s = .next t ∧ t.pc = s.pc + 2 ∧
      t.memRead s.index.toNat = some (BitVec.ofNat 8 ((s.reg x).toNat / 100)) ∧
      t.memRead (s.index.toNat + 1) = some (BitVec.ofNat 8 ((s.reg x).toNat / 10 % 10)) ∧
      t.memRead (s.index.toNat + 2) = some (BitVec.ofNat 8 ((s.reg x).toNat % 10)) ∧
      BytesKeptOutside s.index.toNat 3 s t ∧ KeptBut [.memory] s t) ∧
    (4096 ≤ s.index.toNat + 2 →
      FaultsWith (.ldB x) s .outOfBoundsAccess (encRF 0xF x 0x33) (some (max s.index.toNat 4096)) .write)

/-- R185: LD [I], VX stores V0 to VX from I up, moves I only under LOADSTORE_INCREMENTS_I, or faults. -/
def Obligations.RegisterDump : Prop :=
  (∀ x : RegIx, Decodes (encRF 0xF x 0x55) (.ldMemX x)) ∧ Config.default.loadstoreIncrementsI = false ∧
  ∀ (x : RegIx) (s : State),
    (s.index.toNat + x.toNat < 4096 → ∃ t, exec (.ldMemX x) s = .next t ∧ t.pc = s.pc + 2 ∧
      (∀ j : RegIx, j.toNat ≤ x.toNat → t.memRead (s.index.toNat + j.toNat) = some (s.reg j)) ∧
      t.index.toNat = (if s.cfg.loadstoreIncrementsI then (s.index.toNat + x.toNat + 1) % 65536 else s.index.toNat) ∧
      BytesKeptOutside s.index.toNat (x.toNat + 1) s t ∧ KeptBut [.memory, .indexRegister] s t) ∧
    (4096 ≤ s.index.toNat + x.toNat →
      FaultsWith (.ldMemX x) s .outOfBoundsAccess (encRF 0xF x 0x55) (some (max s.index.toNat 4096)) .write)

/-- R186: LD VX, [I] loads V0 to VX from I up, moves I only under LOADSTORE_INCREMENTS_I, or faults. -/
def Obligations.RegisterLoad : Prop :=
  (∀ x : RegIx, Decodes (encRF 0xF x 0x65) (.ldXMem x)) ∧ Config.default.loadstoreIncrementsI = false ∧
  ∀ (x : RegIx) (s : State),
    (s.index.toNat + x.toNat < 4096 → ∃ t, exec (.ldXMem x) s = .next t ∧ t.pc = s.pc + 2 ∧
      (∀ j : RegIx, j.toNat ≤ x.toNat → s.memRead (s.index.toNat + j.toNat) = some (t.reg j)) ∧
      (∀ j : RegIx, x.toNat < j.toNat → t.reg j = s.reg j) ∧
      t.index.toNat = (if s.cfg.loadstoreIncrementsI then (s.index.toNat + x.toNat + 1) % 65536 else s.index.toNat) ∧
      KeptBut [.registers, .indexRegister] s t) ∧
    (4096 ≤ s.index.toNat + x.toNat →
      FaultsWith (.ldXMem x) s .outOfBoundsAccess (encRF 0xF x 0x65) (some (max s.index.toNat 4096)) .read)

/-! ## Reset, the cycle, decoding -/

/-- R41, R240: the state at construction, for every configuration. That State.reset is the construction at the
defaults, and that the construction takes the values RESET_REGS = arbitrary leaves open as an argument, is the
model's choice (notes/assumptions/6.md, DESIGN CHOICE). -/
def Obligations.ResetValuesOfTheBlock : Prop :=
  Config.default.resetRegs = .zero ∧ (∀ d : ResetValues, State.reset = State.construct Config.default d) ∧
  ∀ (c : Config) (d : ResetValues) (s : State), s = State.construct c d →
    s.pc = 0x200#16 ∧ (∀ a : Nat, a < 4096 → s.memRead a = some 0#8) ∧ s.waitReg = none ∧ s.halted = false ∧
    s.fault = none ∧ s.started = false ∧ s.runStatus = .running ∧
    (c.resetRegs = .zero → (∀ j : RegIx, s.reg j = 0#8) ∧ s.index = 0#16 ∧ s.sp = 0#8 ∧
      (∀ j : Nibble, s.stackAt j = 0#16) ∧ s.dt = 0#8 ∧ s.st = 0#8 ∧
      (∀ (px : Fin 64) (py : Fin 32), s.pixel px py = false) ∧ (∀ k : Nibble, s.keyDown k = false)) ∧
    (c.resetRegs = .arbitrary → s.v = d.v ∧ s.index = d.index ∧ s.sp = d.sp ∧ s.stack = d.stack ∧ s.dt = d.dt ∧
      s.st = d.st ∧ s.fb = d.fb ∧ s.key = d.key)

/-- R40, R57, R58: when the bytes at pc decode to an instruction, a step that is a cycle is exec of it, with
`started` set; the advance of pc is inside exec (notes/assumptions/11.md), the schedule is the model's own
(notes/assumptions/3.md). -/
def Obligations.StepRunsTheDecodedInstruction : Prop :=
  ∀ (s : State) (i : Instr) (hi lo : Byte), s.fault = none → s.halted = false →
    s.memRead s.pc.toNat = some hi → s.memRead (s.pc.toNat + 1) = some lo →
    decodeBytes s.cfg.strictDecode [hi, lo] = .instr i →
    (s.schedule = [] → step s = exec i { s with started := true }) ∧
    (∀ rest, s.schedule = .cycle :: rest → step s = exec i { s with started := true, schedule := rest })

/-- R40, R205: what a cycle does in each case, in the order of the checks. -/
def Obligations.CycleChecksInOrder : Prop :=
  ∀ s : State,
    (s.fault ≠ none → ∀ t, cycle s ≠ .next t) ∧
    (s.fault = none → s.halted = true → cycle s = .next { s with started := true }) ∧
    (s.fault = none → s.halted = false →
      (4096 ≤ s.pc.toNat + 1 → cycle s = .next { s with started := true, fault := some { kind := .outOfBoundsAccess, pc := some s.pc, opcode := none, address := some (max s.pc.toNat 4096), detail := .fetch } }) ∧
      (s.pc.toNat + 1 < 4096 → ∃ w : Word, s.fetch = .ok w ∧
        ((decode s.cfg.strictDecode w = .unsupported ∧ cycle s = .next { s with started := true, fault := some { kind := .unsupportedOpcode, pc := some s.pc, opcode := some w, address := none, detail := .decode } }) ∨
         (∃ i, decode s.cfg.strictDecode w = .instr i ∧ cycle s = exec i { s with started := true }))))

/-- R57: fetch is big-endian, and fails on the first byte address at 4096 or above. -/
def Obligations.FetchIsBigEndian : Prop :=
  ∀ s : State,
    (s.pc.toNat + 1 < 4096 → ∃ (hi lo : Byte) (w : Word), s.memRead s.pc.toNat = some hi ∧
      s.memRead (s.pc.toNat + 1) = some lo ∧ s.fetch = .ok w ∧ w.toNat = hi.toNat * 256 + lo.toNat) ∧
    (s.pc.toNat = 0xFFF → s.fetch = .error 0x1000) ∧
    (0x1000 ≤ s.pc.toNat → s.fetch = .error s.pc.toNat)

/-- Words written out in spec/ (R85 and the vectors of spec/95_test_vectors.md), one family after the other. -/
def Obligations.SpelledWordsDecode : Prop :=
  Decodes 0x0123 (.sys 0x123) ∧ Decodes 0x00E0 .cls ∧ Decodes 0x00EE .ret ∧ Decodes 0x2300 (.call 0x300) ∧
  Decodes 0x5560 (.seReg 0x5 0x6) ∧ Decodes 0x6005 (.ldImm 0x0 0x05) ∧ Decodes 0x8344 (.addReg 0x3 0x4) ∧
  Decodes 0x822E (.shl 0x2 0x2) ∧ Decodes 0xC30F (.rnd 0x3 0x0F) ∧ Decodes 0xD005 (.drw 0x0 0x0 0x5) ∧
  Decodes 0xE1A1 (.sknp 0x1) ∧ Decodes 0xF50A (.ldXK 0x5) ∧ Decodes 0xA300 (.ldI 0x300) ∧
  Decodes 0xF265 (.ldXMem 0x2) ∧ decode true 0x5561 = .unsupported ∧ decode true 0x800F = .unsupported ∧
  decode true 0xE09F = .unsupported ∧ decode true 0xF000 = .unsupported

/-- R76, R81: a word decodes to an instruction of a row exactly when it matches that row of the opcode map,
SYS excluding 0x00E0 and 0x00EE; so no word has two rows, which R81 derives from R80. Without STRICT_DECODE
rows 8 and 20 ignore n (R75, R76). -/
def Obligations.OpcodeMapIsUnambiguous : Prop :=
  (∀ (w : Word) (i : Instr),
    (w &&& (rowOf i).2 = (rowOf i).1 ∧ ((rowOf i).1 = 0x0000#16 → w ≠ 0x00E0#16 ∧ w ≠ 0x00EE#16)) ↔
      ∃ j, decode true w = .instr j ∧ rowOf j = rowOf i) ∧
  (∀ w : Word, w &&& 0xF000#16 = 0x5000#16 → decode false w = .instr (.seReg (xOf w) (yOf w))) ∧
  (∀ w : Word, w &&& 0xF000#16 = 0x9000#16 → decode false w = .instr (.sneReg (xOf w) (yOf w))) ∧
  (∀ w : Word, w &&& 0xF000#16 ≠ 0x5000#16 → w &&& 0xF000#16 ≠ 0x9000#16 → decode false w = decode true w)

/-- R78: exactly these words are unsupported, and a cycle that fetches one raises UnsupportedOpcode; under
SYS_POLICY = fault so does one that fetches a SYS word. -/
def Obligations.UnsupportedWordsFault : Prop :=
  (∀ (strict : Bool) (w : Word), decode strict w = .unsupported ↔
    (strict = true ∧ (opOf w = 0x5#4 ∨ opOf w = 0x9#4) ∧ nOf w ≠ 0x0#4) ∨
    (opOf w = 0x8#4 ∧ nOf w ∈ [0x8#4, 0x9#4, 0xA#4, 0xB#4, 0xC#4, 0xD#4, 0xF#4]) ∨
    (opOf w = 0xE#4 ∧ kkOf w ∉ [0x9E#8, 0xA1#8]) ∨
    (opOf w = 0xF#4 ∧ kkOf w ∉ [0x07#8, 0x0A#8, 0x15#8, 0x18#8, 0x1E#8, 0x29#8, 0x33#8, 0x55#8, 0x65#8])) ∧
  ∀ (s : State) (w : Word), s.fault = none → s.halted = false → s.fetch = .ok w →
    (decode s.cfg.strictDecode w = .unsupported ∨
      (s.cfg.sysPolicy = .fault ∧ opOf w = 0x0#4 ∧ w ≠ 0x00E0#16 ∧ w ≠ 0x00EE#16)) →
    cycle s = .next { s with started := true, fault := some { kind := .unsupportedOpcode, pc := some s.pc, opcode := some w, address := none, detail := .decode } }

/-- Every well-formed instruction is read back from its word and from its bytes, whatever follows them
(R80, R85, R57). -/
def Obligations.DecodeOfEncode : Prop :=
  ∀ (strict : Bool) (i : Instr) (rest : List Byte), WellFormed i = true →
    decode strict (encode i) = .instr i ∧ decodeBytes strict (encodeBytes i ++ rest) = .instr i

/-- Under STRICT_DECODE a word that decodes is the word of the instruction it decodes to: no bit is dropped
(R70, R75, R85). -/
def Obligations.EncodeOfDecode : Prop :=
  ∀ (w : Word) (i : Instr), decode true w = .instr i → encode i = w ∧ WellFormed i = true

/-! ## The whole machine -/

/-- Every step keeps the invariants of the block (R25, R28, R36, R37, R41, R50, R204, R206). -/
def Obligations.EveryStepKeepsTheInvariants : Prop :=
  ∀ s t : State, Inv s → step s = .next t → Inv t

/-- The invariants hold after reset. -/
def Obligations.TheInvariantsHoldAtReset : Prop := Inv State.reset

/-- R206: a cycle that raises a fault changes nothing but the fault record and `started`. So it is with any
step that raises one, a load_binary among them (R52, R204), but for the host's schedule, which is the model's
own (notes/assumptions/3.md, DESIGN CHOICE). -/
def Obligations.FaultsArePrecise : Prop :=
  (∀ s t : State, s.fault = none → cycle s = .next t → t.fault ≠ none →
    t = { s with started := true, fault := t.fault }) ∧
  (∀ s t : State, s.fault = none → step s = .next t → t.fault ≠ none → OnlyFaulted s t)

/-- R207: a FAULTED block has no step for any operation but the two reads, which change nothing; the record
is never cleared. -/
def Obligations.AFaultedBlockStaysFaulted : Prop :=
  (∀ (s : State) (op : HostOp), s.fault ≠ none →
    (op = .readStatus ∨ op = .readFramebuffer → perform op s = .next s) ∧
    (op ≠ .readStatus → op ≠ .readFramebuffer → ∀ t, perform op s ≠ .next t)) ∧
  (∀ s t : State, s.fault ≠ none → step s = .next t → t.fault = s.fault)

/-- R21: an instruction that is no flag writer and has no destination VF leaves VF as it was. -/
def Obligations.OnlyFlagWritersWriteVF : Prop :=
  ∀ (i : Instr) (s t : State), writesFlag s.cfg i = false → isDestination regF i = false →
    exec i s = .next t → t.reg regF = s.reg regF

/-- R20, R21: a register that is neither VF nor a destination of the instruction keeps its value. -/
def Obligations.OnlyDestinationsAreWritten : Prop :=
  ∀ (i : Instr) (s t : State) (j : RegIx), j ≠ regF → isDestination j i = false →
    exec i s = .next t → t.reg j = s.reg j

/-- R22: a flag writer that does not leave the block FAULTED leaves 0 or 1 in VF. -/
def Obligations.FlagsAreZeroOrOne : Prop :=
  ∀ (i : Instr) (s t : State), writesFlag s.cfg i = true → exec i s = .next t → t.fault = none →
    t.reg regF = 0#8 ∨ t.reg regF = 1#8

/-- R27, R32, R33, R51, R167: which instructions may change the stack, the screen, the wait register, the
timers, I and memory; none changes the keys, `started` or the configuration. -/
def Obligations.EachPartHasItsWriters : Prop :=
  ∀ (i : Instr) (s t : State), exec i s = .next t →
    ((∃ nnn, i = .call nnn) ∨ i = .ret ∨ (t.sp = s.sp ∧ ∀ j : Nibble, t.stackAt j = s.stackAt j)) ∧
    (i = .cls ∨ (∃ x y n, i = .drw x y n) ∨ ∀ (px : Fin 64) (py : Fin 32), t.pixel px py = s.pixel px py) ∧
    ((∃ x, i = .ldXK x) ∨ t.waitReg = s.waitReg) ∧
    ((∃ x, i = .ldDtX x) ∨ t.dt = s.dt) ∧
    ((∃ x, i = .ldStX x) ∨ t.st = s.st) ∧
    ((∃ x, i = .ldB x) ∨ (∃ x, i = .ldMemX x) ∨ ∀ a : Nat, t.memRead a = s.memRead a) ∧
    ((∃ nnn, i = .ldI nnn) ∨ (∃ x, i = .addI x) ∨ (∃ x, i = .ldF x) ∨
      (s.cfg.loadstoreIncrementsI = true ∧ ((∃ x, i = .ldMemX x) ∨ ∃ x, i = .ldXMem x)) ∨ t.index = s.index) ∧
    (∀ k : Nibble, t.keyDown k = s.keyDown k) ∧ t.started = s.started ∧ t.cfg = s.cfg ∧ t.schedule = s.schedule

/-- R31, R167: no instruction reads ST. Two states that differ in ST alone go to states that differ in ST
alone; after LD ST, VX they are the same. -/
def Obligations.NoInstructionReadsTheSoundTimer : Prop :=
  ∀ (i : Instr) (s t : State) (b : Byte), exec i s = .next t →
    ((∀ x : RegIx, i ≠ .ldStX x) → exec i (s.setSt b) = .next (t.setSt b)) ∧
    (∀ x : RegIx, i = .ldStX x → exec i (s.setSt b) = .next t)

/-- Every instruction answers a next state in every state: none stops the machine (R203: a fault it raises is
the record written, in a next state). -/
def Obligations.EveryInstructionAnswersANextState : Prop :=
  ∀ (i : Instr) (s : State), ∃ t, exec i s = .next t

/-- R38, R43: a step changes no configuration and never unsets `started`; a step that is a cycle sets it. -/
def Obligations.StartedIsNeverUnset : Prop :=
  (∀ s t : State, step s = .next t → t.cfg = s.cfg ∧ (s.started = true → t.started = true)) ∧
  (∀ s t : State, cycle s = .next t → t.started = true)

/-- R223: while the block waits for a key, only a press of a key 0 to 15 ends the wait, and until then every
step keeps pc and every register. -/
def Obligations.OnlyAPressEndsTheWait : Prop :=
  ∀ s t : State, s.halted = true → step s = .next t →
    (∃ (k : Nat) (rest : List HostOp), k ≤ 15 ∧ s.schedule = .press k :: rest) ∨
    (t.waitReg = s.waitReg ∧ t.pc = s.pc ∧ ∀ j : RegIx, t.reg j = s.reg j)

/-- R225: a running block whose word at pc is a jump to itself is idle: a cycle changes nothing but
`started`. -/
def Obligations.ASelfJumpIsIdle : Prop :=
  ∀ (s : State) (nnn : Addr), s.fault = none → s.halted = false → s.fetch = .ok (encA 0x1 nnn) →
    s.pc.toNat = nnn.toNat → cycle s = .next { s with started := true }

/-- R67: the word a FX55 or FX33 or a load stores at the next instruction's address is what the next fetch
reads. -/
def Obligations.AStoreIsSeenByTheNextFetch : Prop :=
  (∀ (x : RegIx) (s t : State), s.index = s.pc + 2 → s.index.toNat + x.toNat < 4096 → 1 ≤ x.toNat →
    exec (.ldMemX x) s = .next t → t.fetch = .ok (wordOfBytes (s.reg 0x0#4) (s.reg 0x1#4))) ∧
  (∀ (x : RegIx) (s t : State), s.index = s.pc + 2 → s.index.toNat + 2 < 4096 → exec (.ldB x) s = .next t →
    t.fetch = .ok (wordOfBytes (BitVec.ofNat 8 ((s.reg x).toNat / 100)) (BitVec.ofNat 8 ((s.reg x).toNat / 10 % 10)))) ∧
  (∀ (s : State) (hi lo : Byte), s.started = false → s.fault = none → s.pc.toNat + 2 ≤ 4096 →
    (s.loadBinary [hi, lo] s.pc.toNat).fetch = .ok (wordOfBytes hi lo))

/-- R82: the fields that are encoded but ignored make no difference. -/
def Obligations.IgnoredFieldsMakeNoDifference : Prop :=
  (∀ (x y z : RegIx) (s : State), s.cfg.shiftSource = .vx →
    exec (.shr x y) s = exec (.shr x z) s ∧ exec (.shl x y) s = exec (.shl x z) s) ∧
  (∀ (x y : RegIx) (n m : Nibble), decode false (encRR 0x5 x y n) = decode false (encRR 0x5 x y m) ∧
    decode false (encRR 0x9 x y n) = decode false (encRR 0x9 x y m)) ∧
  (∀ (a b : Addr) (s t u : State), exec (.sys a) s = .next t → exec (.sys b) s = .next u →
    { t with fault := none } = { u with fault := none })

/-! ## Memory and the host operations -/

/-- R53, R54: a byte below 4096 reads as written and no other byte changes; at 4096 and above neither access
succeeds. -/
def Obligations.WriteThenReadGivesTheByte : Prop :=
  ∀ (s : State) (a : Nat) (b : Byte),
    (a < 4096 → ∃ t, s.memWrite a b = some t ∧ t.memRead a = some b ∧
      ∀ c : Nat, c ≠ a → t.memRead c = s.memRead c) ∧
    (4096 ≤ a → s.memWrite a b = none ∧ s.memRead a = none)

/-- R217: tick_timers takes one from each timer that is not 0 and touches nothing else, halted or not; a
FAULTED block has no step for it. -/
def Obligations.TickDecrementsTheTimers : Prop :=
  ∀ s : State,
    (s.fault = none → ∃ t, perform .tickTimers s = .next t ∧ t.dt.toNat = s.dt.toNat - 1 ∧
      t.st.toNat = s.st.toNat - 1 ∧ t.pc = s.pc ∧ KeptBut [.delayTimer, .soundTimer] s t) ∧
    (s.fault ≠ none → ∀ t, perform .tickTimers s ≠ .next t)

/-- n ticks take n from each timer and never go below 0 (R217; 60 ticks bring 60 to 0, a 61st leaves 0). -/
def Obligations.ManyTicksStopAtZero : Prop :=
  ∀ (n : Nat) (s : State),
    (State.tickTimers^[n] s).dt.toNat = s.dt.toNat - n ∧ (State.tickTimers^[n] s).st.toNat = s.st.toNat - n ∧
    (State.tickTimers^[n] s).pc = s.pc ∧ KeptBut [.delayTimer, .soundTimer] s (State.tickTimers^[n] s)

/-- R219, R220: press sets a key and completes a pending wait with it; release clears a key and completes
none; a key above 15 changes nothing; a FAULTED block has no step for either. -/
def Obligations.PressAndRelease : Prop :=
  ∀ (s : State) (k : Nat),
    (s.fault = none → k ≤ 15 → ∃ t, perform (.press k) s = .next t ∧ t.pc = s.pc ∧
      t.keyDown (BitVec.ofNat 4 k) = true ∧ (∀ j : Nibble, j.toNat ≠ k → t.keyDown j = s.keyDown j) ∧
      t.waitReg = none ∧ t.halted = false ∧
      (∀ j : RegIx, t.reg j = if s.waitReg = some j then BitVec.ofNat 8 k else s.reg j) ∧
      KeptBut [.keypad, .registers, .waitRegister] s t) ∧
    (s.fault = none → k ≤ 15 → ∃ t, perform (.release k) s = .next t ∧ t.pc = s.pc ∧
      t.keyDown (BitVec.ofNat 4 k) = false ∧ (∀ j : Nibble, j.toNat ≠ k → t.keyDown j = s.keyDown j) ∧
      KeptBut [.keypad] s t) ∧
    (15 < k → s.press k = s ∧ s.release k = s) ∧
    (s.fault ≠ none → ∀ t, perform (.press k) s ≠ .next t ∧ perform (.release k) s ≠ .next t)

/-- R52: load_binary copies the bytes from offset up; a load that does not fit writes nothing and raises
ResourceLoadFailure; once started or FAULTED it makes no move. -/
def Obligations.LoadBinaryCopiesOrFails : Prop :=
  ∀ (s : State) (data : List Byte) (offset : Nat),
    (s.started = false → s.fault = none → offset + data.length ≤ 4096 →
      ∃ t, perform (.loadBinary data offset) s = .next t ∧ t.pc = s.pc ∧
        (∀ j : Nat, j < data.length → t.memRead (offset + j) = data[j]?) ∧
        BytesKeptOutside offset data.length s t ∧ KeptBut [.memory] s t) ∧
    (s.started = false → s.fault = none → 4096 < offset + data.length →
      perform (.loadBinary data offset) s = .next { s with fault := some { kind := .resourceLoadFailure, pc := none, opcode := none, address := some offset, detail := .load } }) ∧
    (s.started = true ∨ s.fault ≠ none → s.loadBinary data offset = s)

/-- R243, derived from R52 and R242: a program of at most 3584 bytes loads at 0x200 beside the font at 0x000, and
pc and `started` are as R41 has them; a longer one raises ResourceLoadFailure. The font's length is a premise
(R8, notes/assumptions/16.md, DEDUCED). -/
def Obligations.BootLoadsFontAndProgram : Prop :=
  ∀ (c : Config) (d : ResetValues) (program : List Byte) (t : State), c.fontImage.length ≤ 4096 →
    t = State.boot c d program →
    (program.length ≤ 3584 → t.fault = none ∧ t.started = false ∧ t.pc = 0x200#16 ∧
      (∀ j : Nat, j < program.length → t.memRead (0x200 + j) = program[j]?) ∧
      (∀ j : Nat, j < c.fontImage.length → (j < 0x200 ∨ 0x200 + program.length ≤ j) → t.memRead j = c.fontImage[j]?)) ∧
    (3584 < program.length → t.fault = some { kind := .resourceLoadFailure, pc := none, opcode := none, address := some 0x200, detail := .load })

/-- R222: read_framebuffer answers 2048 pixels in row-major order and changes nothing. -/
def Obligations.FramebufferIsReadRowMajor : Prop :=
  ∀ s : State, s.readFramebuffer.length = 2048 ∧ perform .readFramebuffer s = .next s ∧
    ∀ (px : Fin 64) (py : Fin 32), s.readFramebuffer[py.val * 64 + px.val]? = some (s.pixel px py)

/-- R36, R221: what read_status answers; in a state that keeps the invariants the three run statuses exclude
each other. -/
def Obligations.StatusReadsTheRunState : Prop :=
  ∀ s : State, perform .readStatus s = .next s ∧ s.readStatus.halted = s.halted ∧ s.readStatus.fault = s.fault ∧
    s.readStatus.soundActive = decide (s.st ≠ 0#8) ∧
    (Inv s → (s.readStatus.runStatus = .running ↔ s.halted = false ∧ s.fault = none) ∧
      (s.readStatus.runStatus = .haltedAwaitingKey ↔ s.halted = true) ∧
      (s.readStatus.runStatus = .faulted ↔ s.fault ≠ none))

/-! ## Hosts that are fair (spec/70_reset_and_hazards.md R254) -/

/-- R254, R216: what the fairness assumptions give on an unending run in which no cycle changes the timer. If the
host ticks for ever, each timer reaches 0 and stays there; if it also cycles for ever, some later cycle runs with
DT at 0, so a loop that polls it reads 0; if it cycles for ever, the block starts. The run has the host's choice as
a parameter (notes/assumptions/17.md, DEDUCED). -/
def Obligations.FairHostsRunTheTimersDown : Prop :=
  ∀ (host : HostTrace) (run : Nat → State), IsRun host run →
    (TicksForever host → (∀ n : Nat, host n = .cycle → (run (n + 1)).dt = (run n).dt) →
      (∃ n : Nat, ∀ m : Nat, n ≤ m → (run m).dt = 0#8) ∧
      (CyclesForever host → ∀ n : Nat, ∃ m : Nat, n ≤ m ∧ host m = .cycle ∧ (run m).dt = 0#8)) ∧
    (TicksForever host → (∀ n : Nat, host n = .cycle → (run (n + 1)).st = (run n).st) →
      ∃ n : Nat, ∀ m : Nat, n ≤ m → (run m).soundActive = false) ∧
    (CyclesForever host → ∃ n : Nat, ∀ m : Nat, n ≤ m → (run m).started = true)
end

