-- ==== Sys2Proof/Laws/Decode.lean ====
section
/-! SUPPORT. The fields of an encoded word (spec/30_encoding.md R71, R85), and what a decoded word is. -/

namespace Sys2Proof

/-! ## Words as numbers -/

theorem toNat_concat {m n : Nat} (a : BitVec m) (b : BitVec n) : (a ++ b).toNat = a.toNat * 2 ^ n + b.toNat := by
  rw [BitVec.toNat_append, ← Nat.shiftLeft_add_eq_or_of_lt b.isLt, Nat.shiftLeft_eq]

theorem toNat_encA (op : Nibble) (nnn : Addr) : (encA op nnn).toNat = op.toNat * 4096 + nnn.toNat :=
  toNat_concat op nnn

theorem toNat_encR (op : Nibble) (x : RegIx) (kk : Byte) :
    (encR op x kk).toNat = op.toNat * 4096 + x.toNat * 256 + kk.toNat := by
  have h : (encR op x kk).toNat = (op ++ x).toNat * 2 ^ 8 + kk.toNat := toNat_concat (op ++ x) kk
  rw [h, toNat_concat]; omega

theorem toNat_encRR (op : Nibble) (x y : RegIx) (n : Nibble) :
    (encRR op x y n).toNat = op.toNat * 4096 + x.toNat * 256 + y.toNat * 16 + n.toNat := by
  have h : (encRR op x y n).toNat = (op ++ x ++ y).toNat * 2 ^ 4 + n.toNat := toNat_concat (op ++ x ++ y) n
  rw [h, toNat_concat, toNat_concat]; omega

theorem toNat_wordOfBytes (hi lo : Byte) : (wordOfBytes hi lo).toNat = hi.toNat * 256 + lo.toNat :=
  toNat_concat hi lo

theorem toNat_opOf (w : Word) : (opOf w).toNat = w.toNat / 4096 := by
  have := w.isLt
  rw [opOf, BitVec.extractLsb'_toNat, Nat.shiftRight_eq_div_pow]; omega

theorem toNat_xOf (w : Word) : (xOf w).toNat = w.toNat / 256 % 16 := by
  rw [xOf, BitVec.extractLsb'_toNat, Nat.shiftRight_eq_div_pow]

theorem toNat_yOf (w : Word) : (yOf w).toNat = w.toNat / 16 % 16 := by
  rw [yOf, BitVec.extractLsb'_toNat, Nat.shiftRight_eq_div_pow]

theorem toNat_nOf (w : Word) : (nOf w).toNat = w.toNat % 16 := by
  rw [nOf, BitVec.extractLsb'_toNat, Nat.shiftRight_eq_div_pow]; omega

theorem toNat_kkOf (w : Word) : (kkOf w).toNat = w.toNat % 256 := by
  rw [kkOf, BitVec.extractLsb'_toNat, Nat.shiftRight_eq_div_pow]; omega

theorem toNat_nnnOf (w : Word) : (nnnOf w).toNat = w.toNat % 4096 := by
  rw [nnnOf, BitVec.extractLsb'_toNat, Nat.shiftRight_eq_div_pow]; omega

/-! ## The fields of an encoded word -/

@[simp] theorem opOf_encA (op : Nibble) (nnn : Addr) : opOf (encA op nnn) = op := by
  apply BitVec.eq_of_toNat_eq; rw [toNat_opOf, toNat_encA]; omega

@[simp] theorem nnnOf_encA (op : Nibble) (nnn : Addr) : nnnOf (encA op nnn) = nnn := by
  apply BitVec.eq_of_toNat_eq; rw [toNat_nnnOf, toNat_encA]; omega

@[simp] theorem opOf_encR (op : Nibble) (x : RegIx) (kk : Byte) : opOf (encR op x kk) = op := by
  apply BitVec.eq_of_toNat_eq; rw [toNat_opOf, toNat_encR]; omega

@[simp] theorem xOf_encR (op : Nibble) (x : RegIx) (kk : Byte) : xOf (encR op x kk) = x := by
  apply BitVec.eq_of_toNat_eq; rw [toNat_xOf, toNat_encR]; omega

@[simp] theorem kkOf_encR (op : Nibble) (x : RegIx) (kk : Byte) : kkOf (encR op x kk) = kk := by
  apply BitVec.eq_of_toNat_eq; rw [toNat_kkOf, toNat_encR]; omega

@[simp] theorem opOf_encRF (op : Nibble) (x : RegIx) (fn : Byte) : opOf (encRF op x fn) = op := opOf_encR op x fn

@[simp] theorem xOf_encRF (op : Nibble) (x : RegIx) (fn : Byte) : xOf (encRF op x fn) = x := xOf_encR op x fn

@[simp] theorem kkOf_encRF (op : Nibble) (x : RegIx) (fn : Byte) : kkOf (encRF op x fn) = fn := kkOf_encR op x fn

@[simp] theorem opOf_encRR (op : Nibble) (x y : RegIx) (n : Nibble) : opOf (encRR op x y n) = op := by
  apply BitVec.eq_of_toNat_eq; rw [toNat_opOf, toNat_encRR]; omega

@[simp] theorem xOf_encRR (op : Nibble) (x y : RegIx) (n : Nibble) : xOf (encRR op x y n) = x := by
  apply BitVec.eq_of_toNat_eq; rw [toNat_xOf, toNat_encRR]; omega

@[simp] theorem yOf_encRR (op : Nibble) (x y : RegIx) (n : Nibble) : yOf (encRR op x y n) = y := by
  apply BitVec.eq_of_toNat_eq; rw [toNat_yOf, toNat_encRR]; omega

@[simp] theorem nOf_encRR (op : Nibble) (x y : RegIx) (n : Nibble) : nOf (encRR op x y n) = n := by
  apply BitVec.eq_of_toNat_eq; rw [toNat_nOf, toNat_encRR]; omega

/-! ## A word is made of its fields -/

theorem encA_fields (w : Word) : encA (opOf w) (nnnOf w) = w := by
  apply BitVec.eq_of_toNat_eq; rw [toNat_encA, toNat_opOf, toNat_nnnOf]; omega

theorem encR_fields (w : Word) : encR (opOf w) (xOf w) (kkOf w) = w := by
  apply BitVec.eq_of_toNat_eq; rw [toNat_encR, toNat_opOf, toNat_xOf, toNat_kkOf]; omega

theorem encRR_fields (w : Word) : encRR (opOf w) (xOf w) (yOf w) (nOf w) = w := by
  apply BitVec.eq_of_toNat_eq; rw [toNat_encRR, toNat_opOf, toNat_xOf, toNat_yOf, toNat_nOf]; omega

/-- The two bytes of a word, in address order, make it up again (R57). -/
theorem wordOfBytes_split (w : Word) : wordOfBytes (w.extractLsb' 8 8) (w.extractLsb' 0 8) = w := by
  apply BitVec.eq_of_toNat_eq
  have := w.isLt
  rw [toNat_wordOfBytes, BitVec.extractLsb'_toNat, BitVec.extractLsb'_toNat, Nat.shiftRight_eq_div_pow,
    Nat.shiftRight_eq_div_pow]
  omega

/-- Every word decodes to an instruction or is unsupported: no word is too short (R70, R80). -/
theorem decode_ne_truncated (strict : Bool) (w : Word) : decode strict w ≠ .truncated := by
  unfold decode decode0 decode8 decodeE decodeF
  repeat' split
  all_goals simp

end Sys2Proof
end

