-- ==== Sys2Proof/Laws/State.lean ====
section
/-! SUPPORT. One lemma per field and per accessor for each update of State, true by rfl. -/

namespace Sys2Proof.Machine

/-! ## setReg -/

@[simp] theorem State.setReg_mem (s : State) (x : RegIx) (b : Byte) : (s.setReg x b).mem = s.mem := rfl
@[simp] theorem State.setReg_v (s : State) (x : RegIx) (b : Byte) : (s.setReg x b).v = s.v.set x.toNat b := rfl
@[simp] theorem State.setReg_index (s : State) (x : RegIx) (b : Byte) : (s.setReg x b).index = s.index := rfl
@[simp] theorem State.setReg_pc (s : State) (x : RegIx) (b : Byte) : (s.setReg x b).pc = s.pc := rfl
@[simp] theorem State.setReg_sp (s : State) (x : RegIx) (b : Byte) : (s.setReg x b).sp = s.sp := rfl
@[simp] theorem State.setReg_stack (s : State) (x : RegIx) (b : Byte) : (s.setReg x b).stack = s.stack := rfl
@[simp] theorem State.setReg_dt (s : State) (x : RegIx) (b : Byte) : (s.setReg x b).dt = s.dt := rfl
@[simp] theorem State.setReg_st (s : State) (x : RegIx) (b : Byte) : (s.setReg x b).st = s.st := rfl
@[simp] theorem State.setReg_fb (s : State) (x : RegIx) (b : Byte) : (s.setReg x b).fb = s.fb := rfl
@[simp] theorem State.setReg_key (s : State) (x : RegIx) (b : Byte) : (s.setReg x b).key = s.key := rfl
@[simp] theorem State.setReg_waitReg (s : State) (x : RegIx) (b : Byte) : (s.setReg x b).waitReg = s.waitReg := rfl
@[simp] theorem State.setReg_fault (s : State) (x : RegIx) (b : Byte) : (s.setReg x b).fault = s.fault := rfl
@[simp] theorem State.setReg_started (s : State) (x : RegIx) (b : Byte) : (s.setReg x b).started = s.started := rfl
@[simp] theorem State.setReg_cfg (s : State) (x : RegIx) (b : Byte) : (s.setReg x b).cfg = s.cfg := rfl
@[simp] theorem State.setReg_schedule (s : State) (x : RegIx) (b : Byte) : (s.setReg x b).schedule = s.schedule := rfl
@[simp] theorem State.setReg_draws (s : State) (x : RegIx) (b : Byte) : (s.setReg x b).draws = s.draws := rfl
@[simp] theorem State.setReg_stackAt (s : State) (x : RegIx) (b : Byte) (j : Nibble) : (s.setReg x b).stackAt j = s.stackAt j := rfl
@[simp] theorem State.setReg_pixel (s : State) (x : RegIx) (b : Byte) (px : Fin 64) (py : Fin 32) : (s.setReg x b).pixel px py = s.pixel px py := rfl
@[simp] theorem State.setReg_keyDown (s : State) (x : RegIx) (b : Byte) (j : Nibble) : (s.setReg x b).keyDown j = s.keyDown j := rfl
@[simp] theorem State.setReg_memRead (s : State) (x : RegIx) (b : Byte) (n : Nat) : (s.setReg x b).memRead n = s.memRead n := rfl
@[simp] theorem State.setReg_halted (s : State) (x : RegIx) (b : Byte) : (s.setReg x b).halted = s.halted := rfl
@[simp] theorem State.setReg_nextRandom (s : State) (x : RegIx) (b : Byte) : (s.setReg x b).nextRandom = s.nextRandom := rfl

/-! ## setIndex -/

@[simp] theorem State.setIndex_mem (s : State) (w : Word) : (s.setIndex w).mem = s.mem := rfl
@[simp] theorem State.setIndex_v (s : State) (w : Word) : (s.setIndex w).v = s.v := rfl
@[simp] theorem State.setIndex_index (s : State) (w : Word) : (s.setIndex w).index = w := rfl
@[simp] theorem State.setIndex_pc (s : State) (w : Word) : (s.setIndex w).pc = s.pc := rfl
@[simp] theorem State.setIndex_sp (s : State) (w : Word) : (s.setIndex w).sp = s.sp := rfl
@[simp] theorem State.setIndex_stack (s : State) (w : Word) : (s.setIndex w).stack = s.stack := rfl
@[simp] theorem State.setIndex_dt (s : State) (w : Word) : (s.setIndex w).dt = s.dt := rfl
@[simp] theorem State.setIndex_st (s : State) (w : Word) : (s.setIndex w).st = s.st := rfl
@[simp] theorem State.setIndex_fb (s : State) (w : Word) : (s.setIndex w).fb = s.fb := rfl
@[simp] theorem State.setIndex_key (s : State) (w : Word) : (s.setIndex w).key = s.key := rfl
@[simp] theorem State.setIndex_waitReg (s : State) (w : Word) : (s.setIndex w).waitReg = s.waitReg := rfl
@[simp] theorem State.setIndex_fault (s : State) (w : Word) : (s.setIndex w).fault = s.fault := rfl
@[simp] theorem State.setIndex_started (s : State) (w : Word) : (s.setIndex w).started = s.started := rfl
@[simp] theorem State.setIndex_cfg (s : State) (w : Word) : (s.setIndex w).cfg = s.cfg := rfl
@[simp] theorem State.setIndex_schedule (s : State) (w : Word) : (s.setIndex w).schedule = s.schedule := rfl
@[simp] theorem State.setIndex_draws (s : State) (w : Word) : (s.setIndex w).draws = s.draws := rfl
@[simp] theorem State.setIndex_reg (s : State) (w : Word) (j : RegIx) : (s.setIndex w).reg j = s.reg j := rfl
@[simp] theorem State.setIndex_stackAt (s : State) (w : Word) (j : Nibble) : (s.setIndex w).stackAt j = s.stackAt j := rfl
@[simp] theorem State.setIndex_pixel (s : State) (w : Word) (x : Fin 64) (y : Fin 32) : (s.setIndex w).pixel x y = s.pixel x y := rfl
@[simp] theorem State.setIndex_keyDown (s : State) (w : Word) (j : Nibble) : (s.setIndex w).keyDown j = s.keyDown j := rfl
@[simp] theorem State.setIndex_memRead (s : State) (w : Word) (n : Nat) : (s.setIndex w).memRead n = s.memRead n := rfl
@[simp] theorem State.setIndex_halted (s : State) (w : Word) : (s.setIndex w).halted = s.halted := rfl
@[simp] theorem State.setIndex_nextRandom (s : State) (w : Word) : (s.setIndex w).nextRandom = s.nextRandom := rfl

/-! ## setPc -/

@[simp] theorem State.setPc_mem (s : State) (w : Word) : (s.setPc w).mem = s.mem := rfl
@[simp] theorem State.setPc_v (s : State) (w : Word) : (s.setPc w).v = s.v := rfl
@[simp] theorem State.setPc_index (s : State) (w : Word) : (s.setPc w).index = s.index := rfl
@[simp] theorem State.setPc_pc (s : State) (w : Word) : (s.setPc w).pc = w := rfl
@[simp] theorem State.setPc_sp (s : State) (w : Word) : (s.setPc w).sp = s.sp := rfl
@[simp] theorem State.setPc_stack (s : State) (w : Word) : (s.setPc w).stack = s.stack := rfl
@[simp] theorem State.setPc_dt (s : State) (w : Word) : (s.setPc w).dt = s.dt := rfl
@[simp] theorem State.setPc_st (s : State) (w : Word) : (s.setPc w).st = s.st := rfl
@[simp] theorem State.setPc_fb (s : State) (w : Word) : (s.setPc w).fb = s.fb := rfl
@[simp] theorem State.setPc_key (s : State) (w : Word) : (s.setPc w).key = s.key := rfl
@[simp] theorem State.setPc_waitReg (s : State) (w : Word) : (s.setPc w).waitReg = s.waitReg := rfl
@[simp] theorem State.setPc_fault (s : State) (w : Word) : (s.setPc w).fault = s.fault := rfl
@[simp] theorem State.setPc_started (s : State) (w : Word) : (s.setPc w).started = s.started := rfl
@[simp] theorem State.setPc_cfg (s : State) (w : Word) : (s.setPc w).cfg = s.cfg := rfl
@[simp] theorem State.setPc_schedule (s : State) (w : Word) : (s.setPc w).schedule = s.schedule := rfl
@[simp] theorem State.setPc_draws (s : State) (w : Word) : (s.setPc w).draws = s.draws := rfl
@[simp] theorem State.setPc_reg (s : State) (w : Word) (j : RegIx) : (s.setPc w).reg j = s.reg j := rfl
@[simp] theorem State.setPc_stackAt (s : State) (w : Word) (j : Nibble) : (s.setPc w).stackAt j = s.stackAt j := rfl
@[simp] theorem State.setPc_pixel (s : State) (w : Word) (x : Fin 64) (y : Fin 32) : (s.setPc w).pixel x y = s.pixel x y := rfl
@[simp] theorem State.setPc_keyDown (s : State) (w : Word) (j : Nibble) : (s.setPc w).keyDown j = s.keyDown j := rfl
@[simp] theorem State.setPc_memRead (s : State) (w : Word) (n : Nat) : (s.setPc w).memRead n = s.memRead n := rfl
@[simp] theorem State.setPc_halted (s : State) (w : Word) : (s.setPc w).halted = s.halted := rfl
@[simp] theorem State.setPc_nextRandom (s : State) (w : Word) : (s.setPc w).nextRandom = s.nextRandom := rfl

/-! ## advance -/

@[simp] theorem State.advance_mem (s : State) : s.advance.mem = s.mem := rfl
@[simp] theorem State.advance_v (s : State) : s.advance.v = s.v := rfl
@[simp] theorem State.advance_index (s : State) : s.advance.index = s.index := rfl
@[simp] theorem State.advance_pc (s : State) : s.advance.pc = s.pc + 2 := rfl
@[simp] theorem State.advance_sp (s : State) : s.advance.sp = s.sp := rfl
@[simp] theorem State.advance_stack (s : State) : s.advance.stack = s.stack := rfl
@[simp] theorem State.advance_dt (s : State) : s.advance.dt = s.dt := rfl
@[simp] theorem State.advance_st (s : State) : s.advance.st = s.st := rfl
@[simp] theorem State.advance_fb (s : State) : s.advance.fb = s.fb := rfl
@[simp] theorem State.advance_key (s : State) : s.advance.key = s.key := rfl
@[simp] theorem State.advance_waitReg (s : State) : s.advance.waitReg = s.waitReg := rfl
@[simp] theorem State.advance_fault (s : State) : s.advance.fault = s.fault := rfl
@[simp] theorem State.advance_started (s : State) : s.advance.started = s.started := rfl
@[simp] theorem State.advance_cfg (s : State) : s.advance.cfg = s.cfg := rfl
@[simp] theorem State.advance_schedule (s : State) : s.advance.schedule = s.schedule := rfl
@[simp] theorem State.advance_draws (s : State) : s.advance.draws = s.draws := rfl
@[simp] theorem State.advance_reg (s : State) (j : RegIx) : s.advance.reg j = s.reg j := rfl
@[simp] theorem State.advance_stackAt (s : State) (j : Nibble) : s.advance.stackAt j = s.stackAt j := rfl
@[simp] theorem State.advance_pixel (s : State) (x : Fin 64) (y : Fin 32) : s.advance.pixel x y = s.pixel x y := rfl
@[simp] theorem State.advance_keyDown (s : State) (j : Nibble) : s.advance.keyDown j = s.keyDown j := rfl
@[simp] theorem State.advance_memRead (s : State) (n : Nat) : s.advance.memRead n = s.memRead n := rfl
@[simp] theorem State.advance_halted (s : State) : s.advance.halted = s.halted := rfl
@[simp] theorem State.advance_nextRandom (s : State) : s.advance.nextRandom = s.nextRandom := rfl

/-! ## setSp -/

@[simp] theorem State.setSp_mem (s : State) (b : Byte) : (s.setSp b).mem = s.mem := rfl
@[simp] theorem State.setSp_v (s : State) (b : Byte) : (s.setSp b).v = s.v := rfl
@[simp] theorem State.setSp_index (s : State) (b : Byte) : (s.setSp b).index = s.index := rfl
@[simp] theorem State.setSp_pc (s : State) (b : Byte) : (s.setSp b).pc = s.pc := rfl
@[simp] theorem State.setSp_sp (s : State) (b : Byte) : (s.setSp b).sp = b := rfl
@[simp] theorem State.setSp_stack (s : State) (b : Byte) : (s.setSp b).stack = s.stack := rfl
@[simp] theorem State.setSp_dt (s : State) (b : Byte) : (s.setSp b).dt = s.dt := rfl
@[simp] theorem State.setSp_st (s : State) (b : Byte) : (s.setSp b).st = s.st := rfl
@[simp] theorem State.setSp_fb (s : State) (b : Byte) : (s.setSp b).fb = s.fb := rfl
@[simp] theorem State.setSp_key (s : State) (b : Byte) : (s.setSp b).key = s.key := rfl
@[simp] theorem State.setSp_waitReg (s : State) (b : Byte) : (s.setSp b).waitReg = s.waitReg := rfl
@[simp] theorem State.setSp_fault (s : State) (b : Byte) : (s.setSp b).fault = s.fault := rfl
@[simp] theorem State.setSp_started (s : State) (b : Byte) : (s.setSp b).started = s.started := rfl
@[simp] theorem State.setSp_cfg (s : State) (b : Byte) : (s.setSp b).cfg = s.cfg := rfl
@[simp] theorem State.setSp_schedule (s : State) (b : Byte) : (s.setSp b).schedule = s.schedule := rfl
@[simp] theorem State.setSp_draws (s : State) (b : Byte) : (s.setSp b).draws = s.draws := rfl
@[simp] theorem State.setSp_reg (s : State) (b : Byte) (j : RegIx) : (s.setSp b).reg j = s.reg j := rfl
@[simp] theorem State.setSp_stackAt (s : State) (b : Byte) (j : Nibble) : (s.setSp b).stackAt j = s.stackAt j := rfl
@[simp] theorem State.setSp_pixel (s : State) (b : Byte) (x : Fin 64) (y : Fin 32) : (s.setSp b).pixel x y = s.pixel x y := rfl
@[simp] theorem State.setSp_keyDown (s : State) (b : Byte) (j : Nibble) : (s.setSp b).keyDown j = s.keyDown j := rfl
@[simp] theorem State.setSp_memRead (s : State) (b : Byte) (n : Nat) : (s.setSp b).memRead n = s.memRead n := rfl
@[simp] theorem State.setSp_halted (s : State) (b : Byte) : (s.setSp b).halted = s.halted := rfl
@[simp] theorem State.setSp_nextRandom (s : State) (b : Byte) : (s.setSp b).nextRandom = s.nextRandom := rfl

/-! ## setStack -/

@[simp] theorem State.setStack_mem (s : State) (e : ReturnStack) : (s.setStack e).mem = s.mem := rfl
@[simp] theorem State.setStack_v (s : State) (e : ReturnStack) : (s.setStack e).v = s.v := rfl
@[simp] theorem State.setStack_index (s : State) (e : ReturnStack) : (s.setStack e).index = s.index := rfl
@[simp] theorem State.setStack_pc (s : State) (e : ReturnStack) : (s.setStack e).pc = s.pc := rfl
@[simp] theorem State.setStack_sp (s : State) (e : ReturnStack) : (s.setStack e).sp = s.sp := rfl
@[simp] theorem State.setStack_stack (s : State) (e : ReturnStack) : (s.setStack e).stack = e := rfl
@[simp] theorem State.setStack_dt (s : State) (e : ReturnStack) : (s.setStack e).dt = s.dt := rfl
@[simp] theorem State.setStack_st (s : State) (e : ReturnStack) : (s.setStack e).st = s.st := rfl
@[simp] theorem State.setStack_fb (s : State) (e : ReturnStack) : (s.setStack e).fb = s.fb := rfl
@[simp] theorem State.setStack_key (s : State) (e : ReturnStack) : (s.setStack e).key = s.key := rfl
@[simp] theorem State.setStack_waitReg (s : State) (e : ReturnStack) : (s.setStack e).waitReg = s.waitReg := rfl
@[simp] theorem State.setStack_fault (s : State) (e : ReturnStack) : (s.setStack e).fault = s.fault := rfl
@[simp] theorem State.setStack_started (s : State) (e : ReturnStack) : (s.setStack e).started = s.started := rfl
@[simp] theorem State.setStack_cfg (s : State) (e : ReturnStack) : (s.setStack e).cfg = s.cfg := rfl
@[simp] theorem State.setStack_schedule (s : State) (e : ReturnStack) : (s.setStack e).schedule = s.schedule := rfl
@[simp] theorem State.setStack_draws (s : State) (e : ReturnStack) : (s.setStack e).draws = s.draws := rfl
@[simp] theorem State.setStack_reg (s : State) (e : ReturnStack) (j : RegIx) : (s.setStack e).reg j = s.reg j := rfl
@[simp] theorem State.setStack_pixel (s : State) (e : ReturnStack) (x : Fin 64) (y : Fin 32) : (s.setStack e).pixel x y = s.pixel x y := rfl
@[simp] theorem State.setStack_keyDown (s : State) (e : ReturnStack) (j : Nibble) : (s.setStack e).keyDown j = s.keyDown j := rfl
@[simp] theorem State.setStack_memRead (s : State) (e : ReturnStack) (n : Nat) : (s.setStack e).memRead n = s.memRead n := rfl
@[simp] theorem State.setStack_halted (s : State) (e : ReturnStack) : (s.setStack e).halted = s.halted := rfl
@[simp] theorem State.setStack_nextRandom (s : State) (e : ReturnStack) : (s.setStack e).nextRandom = s.nextRandom := rfl

/-! ## setDt -/

@[simp] theorem State.setDt_mem (s : State) (b : Byte) : (s.setDt b).mem = s.mem := rfl
@[simp] theorem State.setDt_v (s : State) (b : Byte) : (s.setDt b).v = s.v := rfl
@[simp] theorem State.setDt_index (s : State) (b : Byte) : (s.setDt b).index = s.index := rfl
@[simp] theorem State.setDt_pc (s : State) (b : Byte) : (s.setDt b).pc = s.pc := rfl
@[simp] theorem State.setDt_sp (s : State) (b : Byte) : (s.setDt b).sp = s.sp := rfl
@[simp] theorem State.setDt_stack (s : State) (b : Byte) : (s.setDt b).stack = s.stack := rfl
@[simp] theorem State.setDt_dt (s : State) (b : Byte) : (s.setDt b).dt = b := rfl
@[simp] theorem State.setDt_st (s : State) (b : Byte) : (s.setDt b).st = s.st := rfl
@[simp] theorem State.setDt_fb (s : State) (b : Byte) : (s.setDt b).fb = s.fb := rfl
@[simp] theorem State.setDt_key (s : State) (b : Byte) : (s.setDt b).key = s.key := rfl
@[simp] theorem State.setDt_waitReg (s : State) (b : Byte) : (s.setDt b).waitReg = s.waitReg := rfl
@[simp] theorem State.setDt_fault (s : State) (b : Byte) : (s.setDt b).fault = s.fault := rfl
@[simp] theorem State.setDt_started (s : State) (b : Byte) : (s.setDt b).started = s.started := rfl
@[simp] theorem State.setDt_cfg (s : State) (b : Byte) : (s.setDt b).cfg = s.cfg := rfl
@[simp] theorem State.setDt_schedule (s : State) (b : Byte) : (s.setDt b).schedule = s.schedule := rfl
@[simp] theorem State.setDt_draws (s : State) (b : Byte) : (s.setDt b).draws = s.draws := rfl
@[simp] theorem State.setDt_reg (s : State) (b : Byte) (j : RegIx) : (s.setDt b).reg j = s.reg j := rfl
@[simp] theorem State.setDt_stackAt (s : State) (b : Byte) (j : Nibble) : (s.setDt b).stackAt j = s.stackAt j := rfl
@[simp] theorem State.setDt_pixel (s : State) (b : Byte) (x : Fin 64) (y : Fin 32) : (s.setDt b).pixel x y = s.pixel x y := rfl
@[simp] theorem State.setDt_keyDown (s : State) (b : Byte) (j : Nibble) : (s.setDt b).keyDown j = s.keyDown j := rfl
@[simp] theorem State.setDt_memRead (s : State) (b : Byte) (n : Nat) : (s.setDt b).memRead n = s.memRead n := rfl
@[simp] theorem State.setDt_halted (s : State) (b : Byte) : (s.setDt b).halted = s.halted := rfl
@[simp] theorem State.setDt_nextRandom (s : State) (b : Byte) : (s.setDt b).nextRandom = s.nextRandom := rfl

/-! ## setSt -/

@[simp] theorem State.setSt_mem (s : State) (b : Byte) : (s.setSt b).mem = s.mem := rfl
@[simp] theorem State.setSt_v (s : State) (b : Byte) : (s.setSt b).v = s.v := rfl
@[simp] theorem State.setSt_index (s : State) (b : Byte) : (s.setSt b).index = s.index := rfl
@[simp] theorem State.setSt_pc (s : State) (b : Byte) : (s.setSt b).pc = s.pc := rfl
@[simp] theorem State.setSt_sp (s : State) (b : Byte) : (s.setSt b).sp = s.sp := rfl
@[simp] theorem State.setSt_stack (s : State) (b : Byte) : (s.setSt b).stack = s.stack := rfl
@[simp] theorem State.setSt_dt (s : State) (b : Byte) : (s.setSt b).dt = s.dt := rfl
@[simp] theorem State.setSt_st (s : State) (b : Byte) : (s.setSt b).st = b := rfl
@[simp] theorem State.setSt_fb (s : State) (b : Byte) : (s.setSt b).fb = s.fb := rfl
@[simp] theorem State.setSt_key (s : State) (b : Byte) : (s.setSt b).key = s.key := rfl
@[simp] theorem State.setSt_waitReg (s : State) (b : Byte) : (s.setSt b).waitReg = s.waitReg := rfl
@[simp] theorem State.setSt_fault (s : State) (b : Byte) : (s.setSt b).fault = s.fault := rfl
@[simp] theorem State.setSt_started (s : State) (b : Byte) : (s.setSt b).started = s.started := rfl
@[simp] theorem State.setSt_cfg (s : State) (b : Byte) : (s.setSt b).cfg = s.cfg := rfl
@[simp] theorem State.setSt_schedule (s : State) (b : Byte) : (s.setSt b).schedule = s.schedule := rfl
@[simp] theorem State.setSt_draws (s : State) (b : Byte) : (s.setSt b).draws = s.draws := rfl
@[simp] theorem State.setSt_reg (s : State) (b : Byte) (j : RegIx) : (s.setSt b).reg j = s.reg j := rfl
@[simp] theorem State.setSt_stackAt (s : State) (b : Byte) (j : Nibble) : (s.setSt b).stackAt j = s.stackAt j := rfl
@[simp] theorem State.setSt_pixel (s : State) (b : Byte) (x : Fin 64) (y : Fin 32) : (s.setSt b).pixel x y = s.pixel x y := rfl
@[simp] theorem State.setSt_keyDown (s : State) (b : Byte) (j : Nibble) : (s.setSt b).keyDown j = s.keyDown j := rfl
@[simp] theorem State.setSt_memRead (s : State) (b : Byte) (n : Nat) : (s.setSt b).memRead n = s.memRead n := rfl
@[simp] theorem State.setSt_halted (s : State) (b : Byte) : (s.setSt b).halted = s.halted := rfl
@[simp] theorem State.setSt_nextRandom (s : State) (b : Byte) : (s.setSt b).nextRandom = s.nextRandom := rfl

/-! ## setFb -/

@[simp] theorem State.setFb_mem (s : State) (g : Framebuffer) : (s.setFb g).mem = s.mem := rfl
@[simp] theorem State.setFb_v (s : State) (g : Framebuffer) : (s.setFb g).v = s.v := rfl
@[simp] theorem State.setFb_index (s : State) (g : Framebuffer) : (s.setFb g).index = s.index := rfl
@[simp] theorem State.setFb_pc (s : State) (g : Framebuffer) : (s.setFb g).pc = s.pc := rfl
@[simp] theorem State.setFb_sp (s : State) (g : Framebuffer) : (s.setFb g).sp = s.sp := rfl
@[simp] theorem State.setFb_stack (s : State) (g : Framebuffer) : (s.setFb g).stack = s.stack := rfl
@[simp] theorem State.setFb_dt (s : State) (g : Framebuffer) : (s.setFb g).dt = s.dt := rfl
@[simp] theorem State.setFb_st (s : State) (g : Framebuffer) : (s.setFb g).st = s.st := rfl
@[simp] theorem State.setFb_fb (s : State) (g : Framebuffer) : (s.setFb g).fb = g := rfl
@[simp] theorem State.setFb_key (s : State) (g : Framebuffer) : (s.setFb g).key = s.key := rfl
@[simp] theorem State.setFb_waitReg (s : State) (g : Framebuffer) : (s.setFb g).waitReg = s.waitReg := rfl
@[simp] theorem State.setFb_fault (s : State) (g : Framebuffer) : (s.setFb g).fault = s.fault := rfl
@[simp] theorem State.setFb_started (s : State) (g : Framebuffer) : (s.setFb g).started = s.started := rfl
@[simp] theorem State.setFb_cfg (s : State) (g : Framebuffer) : (s.setFb g).cfg = s.cfg := rfl
@[simp] theorem State.setFb_schedule (s : State) (g : Framebuffer) : (s.setFb g).schedule = s.schedule := rfl
@[simp] theorem State.setFb_draws (s : State) (g : Framebuffer) : (s.setFb g).draws = s.draws := rfl
@[simp] theorem State.setFb_reg (s : State) (g : Framebuffer) (j : RegIx) : (s.setFb g).reg j = s.reg j := rfl
@[simp] theorem State.setFb_stackAt (s : State) (g : Framebuffer) (j : Nibble) : (s.setFb g).stackAt j = s.stackAt j := rfl
@[simp] theorem State.setFb_keyDown (s : State) (g : Framebuffer) (j : Nibble) : (s.setFb g).keyDown j = s.keyDown j := rfl
@[simp] theorem State.setFb_memRead (s : State) (g : Framebuffer) (n : Nat) : (s.setFb g).memRead n = s.memRead n := rfl
@[simp] theorem State.setFb_halted (s : State) (g : Framebuffer) : (s.setFb g).halted = s.halted := rfl
@[simp] theorem State.setFb_nextRandom (s : State) (g : Framebuffer) : (s.setFb g).nextRandom = s.nextRandom := rfl

/-! ## setKey -/

@[simp] theorem State.setKey_mem (s : State) (k : Nibble) (b : Bool) : (s.setKey k b).mem = s.mem := rfl
@[simp] theorem State.setKey_v (s : State) (k : Nibble) (b : Bool) : (s.setKey k b).v = s.v := rfl
@[simp] theorem State.setKey_index (s : State) (k : Nibble) (b : Bool) : (s.setKey k b).index = s.index := rfl
@[simp] theorem State.setKey_pc (s : State) (k : Nibble) (b : Bool) : (s.setKey k b).pc = s.pc := rfl
@[simp] theorem State.setKey_sp (s : State) (k : Nibble) (b : Bool) : (s.setKey k b).sp = s.sp := rfl
@[simp] theorem State.setKey_stack (s : State) (k : Nibble) (b : Bool) : (s.setKey k b).stack = s.stack := rfl
@[simp] theorem State.setKey_dt (s : State) (k : Nibble) (b : Bool) : (s.setKey k b).dt = s.dt := rfl
@[simp] theorem State.setKey_st (s : State) (k : Nibble) (b : Bool) : (s.setKey k b).st = s.st := rfl
@[simp] theorem State.setKey_fb (s : State) (k : Nibble) (b : Bool) : (s.setKey k b).fb = s.fb := rfl
@[simp] theorem State.setKey_key (s : State) (k : Nibble) (b : Bool) : (s.setKey k b).key = s.key.set k.toNat b := rfl
@[simp] theorem State.setKey_waitReg (s : State) (k : Nibble) (b : Bool) : (s.setKey k b).waitReg = s.waitReg := rfl
@[simp] theorem State.setKey_fault (s : State) (k : Nibble) (b : Bool) : (s.setKey k b).fault = s.fault := rfl
@[simp] theorem State.setKey_started (s : State) (k : Nibble) (b : Bool) : (s.setKey k b).started = s.started := rfl
@[simp] theorem State.setKey_cfg (s : State) (k : Nibble) (b : Bool) : (s.setKey k b).cfg = s.cfg := rfl
@[simp] theorem State.setKey_schedule (s : State) (k : Nibble) (b : Bool) : (s.setKey k b).schedule = s.schedule := rfl
@[simp] theorem State.setKey_draws (s : State) (k : Nibble) (b : Bool) : (s.setKey k b).draws = s.draws := rfl
@[simp] theorem State.setKey_reg (s : State) (k : Nibble) (b : Bool) (j : RegIx) : (s.setKey k b).reg j = s.reg j := rfl
@[simp] theorem State.setKey_stackAt (s : State) (k : Nibble) (b : Bool) (j : Nibble) : (s.setKey k b).stackAt j = s.stackAt j := rfl
@[simp] theorem State.setKey_pixel (s : State) (k : Nibble) (b : Bool) (x : Fin 64) (y : Fin 32) : (s.setKey k b).pixel x y = s.pixel x y := rfl
@[simp] theorem State.setKey_memRead (s : State) (k : Nibble) (b : Bool) (n : Nat) : (s.setKey k b).memRead n = s.memRead n := rfl
@[simp] theorem State.setKey_halted (s : State) (k : Nibble) (b : Bool) : (s.setKey k b).halted = s.halted := rfl
@[simp] theorem State.setKey_nextRandom (s : State) (k : Nibble) (b : Bool) : (s.setKey k b).nextRandom = s.nextRandom := rfl

/-! ## setWait -/

@[simp] theorem State.setWait_mem (s : State) (w : Option RegIx) : (s.setWait w).mem = s.mem := rfl
@[simp] theorem State.setWait_v (s : State) (w : Option RegIx) : (s.setWait w).v = s.v := rfl
@[simp] theorem State.setWait_index (s : State) (w : Option RegIx) : (s.setWait w).index = s.index := rfl
@[simp] theorem State.setWait_pc (s : State) (w : Option RegIx) : (s.setWait w).pc = s.pc := rfl
@[simp] theorem State.setWait_sp (s : State) (w : Option RegIx) : (s.setWait w).sp = s.sp := rfl
@[simp] theorem State.setWait_stack (s : State) (w : Option RegIx) : (s.setWait w).stack = s.stack := rfl
@[simp] theorem State.setWait_dt (s : State) (w : Option RegIx) : (s.setWait w).dt = s.dt := rfl
@[simp] theorem State.setWait_st (s : State) (w : Option RegIx) : (s.setWait w).st = s.st := rfl
@[simp] theorem State.setWait_fb (s : State) (w : Option RegIx) : (s.setWait w).fb = s.fb := rfl
@[simp] theorem State.setWait_key (s : State) (w : Option RegIx) : (s.setWait w).key = s.key := rfl
@[simp] theorem State.setWait_waitReg (s : State) (w : Option RegIx) : (s.setWait w).waitReg = w := rfl
@[simp] theorem State.setWait_fault (s : State) (w : Option RegIx) : (s.setWait w).fault = s.fault := rfl
@[simp] theorem State.setWait_started (s : State) (w : Option RegIx) : (s.setWait w).started = s.started := rfl
@[simp] theorem State.setWait_cfg (s : State) (w : Option RegIx) : (s.setWait w).cfg = s.cfg := rfl
@[simp] theorem State.setWait_schedule (s : State) (w : Option RegIx) : (s.setWait w).schedule = s.schedule := rfl
@[simp] theorem State.setWait_draws (s : State) (w : Option RegIx) : (s.setWait w).draws = s.draws := rfl
@[simp] theorem State.setWait_reg (s : State) (w : Option RegIx) (j : RegIx) : (s.setWait w).reg j = s.reg j := rfl
@[simp] theorem State.setWait_stackAt (s : State) (w : Option RegIx) (j : Nibble) : (s.setWait w).stackAt j = s.stackAt j := rfl
@[simp] theorem State.setWait_pixel (s : State) (w : Option RegIx) (x : Fin 64) (y : Fin 32) : (s.setWait w).pixel x y = s.pixel x y := rfl
@[simp] theorem State.setWait_keyDown (s : State) (w : Option RegIx) (j : Nibble) : (s.setWait w).keyDown j = s.keyDown j := rfl
@[simp] theorem State.setWait_memRead (s : State) (w : Option RegIx) (n : Nat) : (s.setWait w).memRead n = s.memRead n := rfl
@[simp] theorem State.setWait_nextRandom (s : State) (w : Option RegIx) : (s.setWait w).nextRandom = s.nextRandom := rfl

/-! ## start -/

@[simp] theorem State.start_mem (s : State) : s.start.mem = s.mem := rfl
@[simp] theorem State.start_v (s : State) : s.start.v = s.v := rfl
@[simp] theorem State.start_index (s : State) : s.start.index = s.index := rfl
@[simp] theorem State.start_pc (s : State) : s.start.pc = s.pc := rfl
@[simp] theorem State.start_sp (s : State) : s.start.sp = s.sp := rfl
@[simp] theorem State.start_stack (s : State) : s.start.stack = s.stack := rfl
@[simp] theorem State.start_dt (s : State) : s.start.dt = s.dt := rfl
@[simp] theorem State.start_st (s : State) : s.start.st = s.st := rfl
@[simp] theorem State.start_fb (s : State) : s.start.fb = s.fb := rfl
@[simp] theorem State.start_key (s : State) : s.start.key = s.key := rfl
@[simp] theorem State.start_waitReg (s : State) : s.start.waitReg = s.waitReg := rfl
@[simp] theorem State.start_fault (s : State) : s.start.fault = s.fault := rfl
@[simp] theorem State.start_started (s : State) : s.start.started = true := rfl
@[simp] theorem State.start_cfg (s : State) : s.start.cfg = s.cfg := rfl
@[simp] theorem State.start_schedule (s : State) : s.start.schedule = s.schedule := rfl
@[simp] theorem State.start_draws (s : State) : s.start.draws = s.draws := rfl
@[simp] theorem State.start_reg (s : State) (j : RegIx) : s.start.reg j = s.reg j := rfl
@[simp] theorem State.start_stackAt (s : State) (j : Nibble) : s.start.stackAt j = s.stackAt j := rfl
@[simp] theorem State.start_pixel (s : State) (x : Fin 64) (y : Fin 32) : s.start.pixel x y = s.pixel x y := rfl
@[simp] theorem State.start_keyDown (s : State) (j : Nibble) : s.start.keyDown j = s.keyDown j := rfl
@[simp] theorem State.start_memRead (s : State) (n : Nat) : s.start.memRead n = s.memRead n := rfl
@[simp] theorem State.start_halted (s : State) : s.start.halted = s.halted := rfl
@[simp] theorem State.start_nextRandom (s : State) : s.start.nextRandom = s.nextRandom := rfl

/-! ## setSchedule -/

@[simp] theorem State.setSchedule_mem (s : State) (ops : List HostOp) : (s.setSchedule ops).mem = s.mem := rfl
@[simp] theorem State.setSchedule_v (s : State) (ops : List HostOp) : (s.setSchedule ops).v = s.v := rfl
@[simp] theorem State.setSchedule_index (s : State) (ops : List HostOp) : (s.setSchedule ops).index = s.index := rfl
@[simp] theorem State.setSchedule_pc (s : State) (ops : List HostOp) : (s.setSchedule ops).pc = s.pc := rfl
@[simp] theorem State.setSchedule_sp (s : State) (ops : List HostOp) : (s.setSchedule ops).sp = s.sp := rfl
@[simp] theorem State.setSchedule_stack (s : State) (ops : List HostOp) : (s.setSchedule ops).stack = s.stack := rfl
@[simp] theorem State.setSchedule_dt (s : State) (ops : List HostOp) : (s.setSchedule ops).dt = s.dt := rfl
@[simp] theorem State.setSchedule_st (s : State) (ops : List HostOp) : (s.setSchedule ops).st = s.st := rfl
@[simp] theorem State.setSchedule_fb (s : State) (ops : List HostOp) : (s.setSchedule ops).fb = s.fb := rfl
@[simp] theorem State.setSchedule_key (s : State) (ops : List HostOp) : (s.setSchedule ops).key = s.key := rfl
@[simp] theorem State.setSchedule_waitReg (s : State) (ops : List HostOp) : (s.setSchedule ops).waitReg = s.waitReg := rfl
@[simp] theorem State.setSchedule_fault (s : State) (ops : List HostOp) : (s.setSchedule ops).fault = s.fault := rfl
@[simp] theorem State.setSchedule_started (s : State) (ops : List HostOp) : (s.setSchedule ops).started = s.started := rfl
@[simp] theorem State.setSchedule_cfg (s : State) (ops : List HostOp) : (s.setSchedule ops).cfg = s.cfg := rfl
@[simp] theorem State.setSchedule_schedule (s : State) (ops : List HostOp) : (s.setSchedule ops).schedule = ops := rfl
@[simp] theorem State.setSchedule_draws (s : State) (ops : List HostOp) : (s.setSchedule ops).draws = s.draws := rfl
@[simp] theorem State.setSchedule_reg (s : State) (ops : List HostOp) (j : RegIx) : (s.setSchedule ops).reg j = s.reg j := rfl
@[simp] theorem State.setSchedule_stackAt (s : State) (ops : List HostOp) (j : Nibble) : (s.setSchedule ops).stackAt j = s.stackAt j := rfl
@[simp] theorem State.setSchedule_pixel (s : State) (ops : List HostOp) (x : Fin 64) (y : Fin 32) : (s.setSchedule ops).pixel x y = s.pixel x y := rfl
@[simp] theorem State.setSchedule_keyDown (s : State) (ops : List HostOp) (j : Nibble) : (s.setSchedule ops).keyDown j = s.keyDown j := rfl
@[simp] theorem State.setSchedule_memRead (s : State) (ops : List HostOp) (n : Nat) : (s.setSchedule ops).memRead n = s.memRead n := rfl
@[simp] theorem State.setSchedule_halted (s : State) (ops : List HostOp) : (s.setSchedule ops).halted = s.halted := rfl
@[simp] theorem State.setSchedule_nextRandom (s : State) (ops : List HostOp) : (s.setSchedule ops).nextRandom = s.nextRandom := rfl

/-! ## countDraw -/

@[simp] theorem State.countDraw_mem (s : State) : s.countDraw.mem = s.mem := rfl
@[simp] theorem State.countDraw_v (s : State) : s.countDraw.v = s.v := rfl
@[simp] theorem State.countDraw_index (s : State) : s.countDraw.index = s.index := rfl
@[simp] theorem State.countDraw_pc (s : State) : s.countDraw.pc = s.pc := rfl
@[simp] theorem State.countDraw_sp (s : State) : s.countDraw.sp = s.sp := rfl
@[simp] theorem State.countDraw_stack (s : State) : s.countDraw.stack = s.stack := rfl
@[simp] theorem State.countDraw_dt (s : State) : s.countDraw.dt = s.dt := rfl
@[simp] theorem State.countDraw_st (s : State) : s.countDraw.st = s.st := rfl
@[simp] theorem State.countDraw_fb (s : State) : s.countDraw.fb = s.fb := rfl
@[simp] theorem State.countDraw_key (s : State) : s.countDraw.key = s.key := rfl
@[simp] theorem State.countDraw_waitReg (s : State) : s.countDraw.waitReg = s.waitReg := rfl
@[simp] theorem State.countDraw_fault (s : State) : s.countDraw.fault = s.fault := rfl
@[simp] theorem State.countDraw_started (s : State) : s.countDraw.started = s.started := rfl
@[simp] theorem State.countDraw_cfg (s : State) : s.countDraw.cfg = s.cfg := rfl
@[simp] theorem State.countDraw_schedule (s : State) : s.countDraw.schedule = s.schedule := rfl
@[simp] theorem State.countDraw_draws (s : State) : s.countDraw.draws = s.draws + 1 := rfl
@[simp] theorem State.countDraw_reg (s : State) (j : RegIx) : s.countDraw.reg j = s.reg j := rfl
@[simp] theorem State.countDraw_stackAt (s : State) (j : Nibble) : s.countDraw.stackAt j = s.stackAt j := rfl
@[simp] theorem State.countDraw_pixel (s : State) (x : Fin 64) (y : Fin 32) : s.countDraw.pixel x y = s.pixel x y := rfl
@[simp] theorem State.countDraw_keyDown (s : State) (j : Nibble) : s.countDraw.keyDown j = s.keyDown j := rfl
@[simp] theorem State.countDraw_memRead (s : State) (n : Nat) : s.countDraw.memRead n = s.memRead n := rfl
@[simp] theorem State.countDraw_halted (s : State) : s.countDraw.halted = s.halted := rfl

/-! ## store -/

@[simp] theorem State.store_mem (s : State) (a : Nat) (bytes : List Byte) : (s.store a bytes).mem = s.mem.writeBytes a bytes := rfl
@[simp] theorem State.store_v (s : State) (a : Nat) (bytes : List Byte) : (s.store a bytes).v = s.v := rfl
@[simp] theorem State.store_index (s : State) (a : Nat) (bytes : List Byte) : (s.store a bytes).index = s.index := rfl
@[simp] theorem State.store_pc (s : State) (a : Nat) (bytes : List Byte) : (s.store a bytes).pc = s.pc := rfl
@[simp] theorem State.store_sp (s : State) (a : Nat) (bytes : List Byte) : (s.store a bytes).sp = s.sp := rfl
@[simp] theorem State.store_stack (s : State) (a : Nat) (bytes : List Byte) : (s.store a bytes).stack = s.stack := rfl
@[simp] theorem State.store_dt (s : State) (a : Nat) (bytes : List Byte) : (s.store a bytes).dt = s.dt := rfl
@[simp] theorem State.store_st (s : State) (a : Nat) (bytes : List Byte) : (s.store a bytes).st = s.st := rfl
@[simp] theorem State.store_fb (s : State) (a : Nat) (bytes : List Byte) : (s.store a bytes).fb = s.fb := rfl
@[simp] theorem State.store_key (s : State) (a : Nat) (bytes : List Byte) : (s.store a bytes).key = s.key := rfl
@[simp] theorem State.store_waitReg (s : State) (a : Nat) (bytes : List Byte) : (s.store a bytes).waitReg = s.waitReg := rfl
@[simp] theorem State.store_fault (s : State) (a : Nat) (bytes : List Byte) : (s.store a bytes).fault = s.fault := rfl
@[simp] theorem State.store_started (s : State) (a : Nat) (bytes : List Byte) : (s.store a bytes).started = s.started := rfl
@[simp] theorem State.store_cfg (s : State) (a : Nat) (bytes : List Byte) : (s.store a bytes).cfg = s.cfg := rfl
@[simp] theorem State.store_schedule (s : State) (a : Nat) (bytes : List Byte) : (s.store a bytes).schedule = s.schedule := rfl
@[simp] theorem State.store_draws (s : State) (a : Nat) (bytes : List Byte) : (s.store a bytes).draws = s.draws := rfl
@[simp] theorem State.store_reg (s : State) (a : Nat) (bytes : List Byte) (j : RegIx) : (s.store a bytes).reg j = s.reg j := rfl
@[simp] theorem State.store_stackAt (s : State) (a : Nat) (bytes : List Byte) (j : Nibble) : (s.store a bytes).stackAt j = s.stackAt j := rfl
@[simp] theorem State.store_pixel (s : State) (a : Nat) (bytes : List Byte) (x : Fin 64) (y : Fin 32) : (s.store a bytes).pixel x y = s.pixel x y := rfl
@[simp] theorem State.store_keyDown (s : State) (a : Nat) (bytes : List Byte) (j : Nibble) : (s.store a bytes).keyDown j = s.keyDown j := rfl
@[simp] theorem State.store_halted (s : State) (a : Nat) (bytes : List Byte) : (s.store a bytes).halted = s.halted := rfl
@[simp] theorem State.store_nextRandom (s : State) (a : Nat) (bytes : List Byte) : (s.store a bytes).nextRandom = s.nextRandom := rfl

/-! ## raise -/

@[simp] theorem State.raise_mem (s : State) (kind : FaultKind) (p o : Option Word) (a : Option Nat) (d : FaultDetail) : (s.raise kind p o a d).mem = s.mem := rfl
@[simp] theorem State.raise_v (s : State) (kind : FaultKind) (p o : Option Word) (a : Option Nat) (d : FaultDetail) : (s.raise kind p o a d).v = s.v := rfl
@[simp] theorem State.raise_index (s : State) (kind : FaultKind) (p o : Option Word) (a : Option Nat) (d : FaultDetail) : (s.raise kind p o a d).index = s.index := rfl
@[simp] theorem State.raise_pc (s : State) (kind : FaultKind) (p o : Option Word) (a : Option Nat) (d : FaultDetail) : (s.raise kind p o a d).pc = s.pc := rfl
@[simp] theorem State.raise_sp (s : State) (kind : FaultKind) (p o : Option Word) (a : Option Nat) (d : FaultDetail) : (s.raise kind p o a d).sp = s.sp := rfl
@[simp] theorem State.raise_stack (s : State) (kind : FaultKind) (p o : Option Word) (a : Option Nat) (d : FaultDetail) : (s.raise kind p o a d).stack = s.stack := rfl
@[simp] theorem State.raise_dt (s : State) (kind : FaultKind) (p o : Option Word) (a : Option Nat) (d : FaultDetail) : (s.raise kind p o a d).dt = s.dt := rfl
@[simp] theorem State.raise_st (s : State) (kind : FaultKind) (p o : Option Word) (a : Option Nat) (d : FaultDetail) : (s.raise kind p o a d).st = s.st := rfl
@[simp] theorem State.raise_fb (s : State) (kind : FaultKind) (p o : Option Word) (a : Option Nat) (d : FaultDetail) : (s.raise kind p o a d).fb = s.fb := rfl
@[simp] theorem State.raise_key (s : State) (kind : FaultKind) (p o : Option Word) (a : Option Nat) (d : FaultDetail) : (s.raise kind p o a d).key = s.key := rfl
@[simp] theorem State.raise_waitReg (s : State) (kind : FaultKind) (p o : Option Word) (a : Option Nat) (d : FaultDetail) : (s.raise kind p o a d).waitReg = s.waitReg := rfl
@[simp] theorem State.raise_fault (s : State) (kind : FaultKind) (p o : Option Word) (a : Option Nat) (d : FaultDetail) : (s.raise kind p o a d).fault = some { kind := kind, pc := p, opcode := o, address := a, detail := d } := rfl
@[simp] theorem State.raise_started (s : State) (kind : FaultKind) (p o : Option Word) (a : Option Nat) (d : FaultDetail) : (s.raise kind p o a d).started = s.started := rfl
@[simp] theorem State.raise_cfg (s : State) (kind : FaultKind) (p o : Option Word) (a : Option Nat) (d : FaultDetail) : (s.raise kind p o a d).cfg = s.cfg := rfl
@[simp] theorem State.raise_schedule (s : State) (kind : FaultKind) (p o : Option Word) (a : Option Nat) (d : FaultDetail) : (s.raise kind p o a d).schedule = s.schedule := rfl
@[simp] theorem State.raise_draws (s : State) (kind : FaultKind) (p o : Option Word) (a : Option Nat) (d : FaultDetail) : (s.raise kind p o a d).draws = s.draws := rfl
@[simp] theorem State.raise_reg (s : State) (kind : FaultKind) (p o : Option Word) (a : Option Nat) (d : FaultDetail) (j : RegIx) : (s.raise kind p o a d).reg j = s.reg j := rfl
@[simp] theorem State.raise_stackAt (s : State) (kind : FaultKind) (p o : Option Word) (a : Option Nat) (d : FaultDetail) (j : Nibble) : (s.raise kind p o a d).stackAt j = s.stackAt j := rfl
@[simp] theorem State.raise_pixel (s : State) (kind : FaultKind) (p o : Option Word) (a : Option Nat) (d : FaultDetail) (x : Fin 64) (y : Fin 32) : (s.raise kind p o a d).pixel x y = s.pixel x y := rfl
@[simp] theorem State.raise_keyDown (s : State) (kind : FaultKind) (p o : Option Word) (a : Option Nat) (d : FaultDetail) (j : Nibble) : (s.raise kind p o a d).keyDown j = s.keyDown j := rfl
@[simp] theorem State.raise_memRead (s : State) (kind : FaultKind) (p o : Option Word) (a : Option Nat) (d : FaultDetail) (n : Nat) : (s.raise kind p o a d).memRead n = s.memRead n := rfl
@[simp] theorem State.raise_halted (s : State) (kind : FaultKind) (p o : Option Word) (a : Option Nat) (d : FaultDetail) : (s.raise kind p o a d).halted = s.halted := rfl
@[simp] theorem State.raise_nextRandom (s : State) (kind : FaultKind) (p o : Option Word) (a : Option Nat) (d : FaultDetail) : (s.raise kind p o a d).nextRandom = s.nextRandom := rfl

/-! ## Reading what was written -/

theorem State.setStack_set_stackAt (s : State) (k : Nat) (h : k < 16) (w : Word) (j : Nibble) :
    (s.setStack (s.stack.set k w h)).stackAt j = if j.toNat = k then w else s.stackAt j := by
  simp only [State.stackAt, State.setStack, Vector.getElem_set, eq_comm]

theorem State.setReg_reg (s : State) (x j : RegIx) (b : Byte) : (s.setReg x b).reg j = if j = x then b else s.reg j := by
  simp only [State.reg, State.setReg, Vector.getElem_set, BitVec.toNat_inj, eq_comm]

@[simp] theorem State.setReg_reg_same (s : State) (x : RegIx) (b : Byte) : (s.setReg x b).reg x = b := by
  simp [State.setReg_reg]

theorem State.setKey_keyDown (s : State) (k j : Nibble) (b : Bool) : (s.setKey k b).keyDown j = if j = k then b else s.keyDown j := by
  simp only [State.keyDown, State.setKey, Vector.getElem_set, BitVec.toNat_inj, eq_comm]

theorem Framebuffer.pixel_setPixel (fb : Framebuffer) (x px : Fin 64) (y py : Fin 32) (b : Bool) :
    (fb.setPixel x y b).pixel px py = if px = x ∧ py = y then b else fb.pixel px py := by
  unfold Framebuffer.pixel Framebuffer.setPixel
  by_cases hy : py = y
  · subst hy
    by_cases hx : px = x
    · simp [hx]
    · have : (x : Nat) ≠ px := fun h => hx (Fin.ext h.symm)
      simp [hx, this]
  · have : (y : Nat) ≠ py := fun h => hy (Fin.ext h.symm)
    simp [hy, this]

@[simp] theorem Framebuffer.pixel_clear (x : Fin 64) (y : Fin 32) : Framebuffer.clear.pixel x y = false := by
  simp [Framebuffer.clear, Framebuffer.pixel]

@[simp] theorem State.setFb_pixel (s : State) (g : Framebuffer) (x : Fin 64) (y : Fin 32) : (s.setFb g).pixel x y = g.pixel x y := rfl

@[simp] theorem State.setWait_halted (s : State) (w : Option RegIx) : (s.setWait w).halted = w.isSome := rfl

end Sys2Proof.Machine
end

