-- ==== Sys2Proof/Laws/Memory.lean ====
section
/-! SUPPORT. The laws of memory: what is read after a write, and that every operation keeps the canonical form. -/

namespace Sys2Proof.Machine

/-! ## Reading after writing -/

theorem Memory.read_erase (m : Memory) (a b : Nat) : (m.erase a).read b = if b = a then Memory.unlisted else m.read b := by
  induction m with
  | nil => simp [Memory.erase, Memory.read]
  | cons c m ih =>
    obtain ⟨d, w⟩ := c
    by_cases hd : d = a
    · simp only [Memory.erase, hd, if_true, ih, Memory.read]
      by_cases hb : b = a
      · simp [hb]
      · simp [hb, Ne.symm hb]
    · simp only [Memory.erase, hd, if_false, Memory.read, ih]
      by_cases hb : b = a
      · simp [hb, hd]
      · simp [hb]

theorem Memory.read_insert (m : Memory) (a b : Nat) (x : Byte)
    (hm : ∀ w, (a, w) ∉ m) : (m.insert a x).read b = if b = a then x else m.read b := by
  induction m with
  | nil =>
    by_cases hb : b = a
    · simp [Memory.insert, Memory.read, hb]
    · simp [Memory.insert, Memory.read, hb, Ne.symm hb]
  | cons c m ih =>
    obtain ⟨d, w⟩ := c
    have hd : d ≠ a := fun h => hm w (by simp [h])
    have ih := ih (fun w' hw => hm w' (List.mem_cons_of_mem _ hw))
    by_cases hlt : a < d
    · simp only [Memory.insert, hlt, if_true, Memory.read]
      by_cases hb : b = a
      · simp [hb]
      · simp [hb, Ne.symm hb]
    · simp only [Memory.insert, hlt, if_false, Memory.read, ih]
      by_cases hb : b = a
      · simp [hb, hd]
      · simp [hb]

theorem Memory.not_mem_erase (m : Memory) (a : Nat) (w : Byte) : (a, w) ∉ m.erase a := by
  induction m with
  | nil => simp [Memory.erase]
  | cons c m ih =>
    obtain ⟨d, x⟩ := c
    by_cases hd : d = a
    · simpa [Memory.erase, hd] using ih
    · simp [Memory.erase, hd, ih, Ne.symm hd]

/-- A byte reads as written, and every other byte as before, in any memory. -/
theorem Memory.read_write (m : Memory) (a b : Nat) (x : Byte) : (m.write a x).read b = if b = a then x else m.read b := by
  unfold Memory.write
  split
  · rename_i h
    rw [Memory.read_erase, h]
  · rw [Memory.read_insert _ _ _ _ (fun w => Memory.not_mem_erase m a w), Memory.read_erase]
    by_cases hb : b = a <;> simp [hb]

/-- Consecutive stores: inside the range the j-th byte, outside it what was there. -/
theorem Memory.read_writeBytes (m : Memory) (a b : Nat) (xs : List Byte) :
    (m.writeBytes a xs).read b = if h : a ≤ b ∧ b < a + xs.length then xs[b - a]'(by omega) else m.read b := by
  induction xs generalizing m a with
  | nil =>
    simp [Memory.writeBytes]
  | cons x xs ih =>
    rw [Memory.writeBytes, ih, Memory.read_write]
    by_cases hb : b = a
    · subst hb
      have h1 : ¬ (b + 1 ≤ b ∧ b < b + 1 + xs.length) := by omega
      simp
    · by_cases hin : a + 1 ≤ b ∧ b < a + 1 + xs.length
      · have h2 : a ≤ b ∧ b < a + (x :: xs).length := by simp only [List.length_cons]; omega
        have h3 : b - a = (b - (a + 1)) + 1 := by omega
        rw [dif_pos hin, dif_pos h2]
        simp only [h3, List.getElem_cons_succ]
      · have h2 : ¬ (a ≤ b ∧ b < a + (x :: xs).length) := by simp only [List.length_cons]; omega
        rw [dif_neg hin, dif_neg h2, if_neg hb]

theorem Memory.length_readBytes (m : Memory) (a n : Nat) : (m.readBytes a n).length = n := by
  induction n generalizing a with
  | zero => rfl
  | succ n ih => simp [Memory.readBytes, ih]

theorem Memory.getElem_readBytes (m : Memory) (a n j : Nat) (h : j < (m.readBytes a n).length) :
    (m.readBytes a n)[j] = m.read (a + j) := by
  induction n generalizing a j with
  | zero => simp [Memory.readBytes] at h
  | succ n ih =>
    cases j with
    | zero => rfl
    | succ j =>
      simp only [Memory.readBytes, List.getElem_cons_succ]
      rw [ih, Nat.add_assoc, Nat.add_comm 1 j]

/-! ## The canonical form -/

theorem Memory.wfFrom_mono {lo lo' : Nat} (h : lo' ≤ lo) : ∀ {m : Memory}, Memory.wfFrom lo m = true → Memory.wfFrom lo' m = true
  | [], _ => rfl
  | (a, v) :: m, hm => by
    simp only [Memory.wfFrom, Bool.and_eq_true, decide_eq_true_eq] at hm ⊢
    exact ⟨⟨⟨by omega, hm.1.1.2⟩, hm.1.2⟩, hm.2⟩

theorem Memory.wfFrom_erase {lo : Nat} (a : Nat) : ∀ {m : Memory}, Memory.wfFrom lo m = true → Memory.wfFrom lo (m.erase a) = true
  | [], _ => rfl
  | (b, v) :: m, hm => by
    simp only [Memory.wfFrom, Bool.and_eq_true, decide_eq_true_eq] at hm
    simp only [Memory.erase]
    split
    · exact Memory.wfFrom_mono (by omega) (Memory.wfFrom_erase a hm.2)
    · simp only [Memory.wfFrom, Bool.and_eq_true, decide_eq_true_eq]
      exact ⟨hm.1, Memory.wfFrom_erase a hm.2⟩

theorem Memory.wfFrom_insert {lo a : Nat} {x : Byte} (hlo : lo ≤ a) (ha : a < memSize) (hx : x ≠ Memory.unlisted) :
    ∀ {m : Memory}, Memory.wfFrom lo m = true → (∀ w, (a, w) ∉ m) → Memory.wfFrom lo (m.insert a x) = true
  | [], _, _ => by simp [Memory.insert, Memory.wfFrom, hlo, hx]; omega
  | (b, v) :: m, hm, hn => by
    have hb : b ≠ a := fun h => hn v (by simp [h])
    have hn' : ∀ w, (a, w) ∉ m := fun w hw => hn w (List.mem_cons_of_mem _ hw)
    simp only [Memory.wfFrom, Bool.and_eq_true, decide_eq_true_eq] at hm
    simp only [Memory.insert]
    split
    · simp only [Memory.wfFrom, Bool.and_eq_true, decide_eq_true_eq]
      exact ⟨⟨⟨hlo, ha⟩, hx⟩, ⟨⟨⟨by omega, hm.1.1.2⟩, hm.1.2⟩, hm.2⟩⟩
    · simp only [Memory.wfFrom, Bool.and_eq_true, decide_eq_true_eq]
      exact ⟨hm.1, Memory.wfFrom_insert (by omega) ha hx hm.2 hn'⟩

/-- A store inside the address space keeps the canonical form. -/
theorem Memory.wf_write {m : Memory} (hm : m.wf = true) {a : Nat} (ha : a < memSize) (x : Byte) : (m.write a x).wf = true := by
  unfold Memory.write Memory.wf
  split
  · exact Memory.wfFrom_erase a hm
  · rename_i hx
    exact Memory.wfFrom_insert (Nat.zero_le a) ha hx (Memory.wfFrom_erase a hm) (fun w => Memory.not_mem_erase m a w)

/-- Consecutive stores inside the address space keep the canonical form. -/
theorem Memory.wf_writeBytes {m : Memory} (hm : m.wf = true) (a : Nat) (xs : List Byte) (ha : xs = [] ∨ a + xs.length ≤ memSize) :
    (m.writeBytes a xs).wf = true := by
  induction xs generalizing m a with
  | nil => exact hm
  | cons x xs ih =>
    simp only [List.length_cons, reduceCtorEq, false_or] at ha
    exact ih (Memory.wf_write hm (by omega) x) (a + 1) (by right; omega)

theorem State.reset_mem_wf : State.reset.mem.wf = true := rfl

/-! ## The bounds-checked accesses -/

/-- MemRead answers exactly below 4096 (R53). -/
theorem State.memRead_eq_some {s : State} {a : Nat} {b : Byte} : s.memRead a = some b ↔ a < memSize ∧ s.mem.read a = b := by
  unfold State.memRead
  split <;> simp_all

/-- A state after a store, read through MemRead. -/
theorem State.memRead_store (s : State) (a b : Nat) (xs : List Byte) :
    (s.store a xs).memRead b = if h : (a ≤ b ∧ b < a + xs.length) ∧ b < memSize then some (xs[b - a]'(by omega)) else s.memRead b := by
  unfold State.memRead State.store
  simp only [Memory.read_writeBytes]
  by_cases hb : b < memSize
  · by_cases hin : a ≤ b ∧ b < a + xs.length <;> simp [hb, hin]
  · simp [hb]

end Sys2Proof.Machine
end

