-- ==== Sys2Proof/Laws/Ops.lean ====
section
/-! SUPPORT. For each shared operation, once, everything it can do. -/

namespace Sys2Proof.Machine

/-! ## The skip (R14) -/

@[simp] theorem State.skipIf_mem (s : State) (c : Bool) : (s.skipIf c).mem = s.mem := by
  unfold State.skipIf; split <;> rfl
@[simp] theorem State.skipIf_v (s : State) (c : Bool) : (s.skipIf c).v = s.v := by
  unfold State.skipIf; split <;> rfl
@[simp] theorem State.skipIf_index (s : State) (c : Bool) : (s.skipIf c).index = s.index := by
  unfold State.skipIf; split <;> rfl
@[simp] theorem State.skipIf_sp (s : State) (c : Bool) : (s.skipIf c).sp = s.sp := by
  unfold State.skipIf; split <;> rfl
@[simp] theorem State.skipIf_stack (s : State) (c : Bool) : (s.skipIf c).stack = s.stack := by
  unfold State.skipIf; split <;> rfl
@[simp] theorem State.skipIf_dt (s : State) (c : Bool) : (s.skipIf c).dt = s.dt := by
  unfold State.skipIf; split <;> rfl
@[simp] theorem State.skipIf_st (s : State) (c : Bool) : (s.skipIf c).st = s.st := by
  unfold State.skipIf; split <;> rfl
@[simp] theorem State.skipIf_fb (s : State) (c : Bool) : (s.skipIf c).fb = s.fb := by
  unfold State.skipIf; split <;> rfl
@[simp] theorem State.skipIf_key (s : State) (c : Bool) : (s.skipIf c).key = s.key := by
  unfold State.skipIf; split <;> rfl
@[simp] theorem State.skipIf_waitReg (s : State) (c : Bool) : (s.skipIf c).waitReg = s.waitReg := by
  unfold State.skipIf; split <;> rfl
@[simp] theorem State.skipIf_fault (s : State) (c : Bool) : (s.skipIf c).fault = s.fault := by
  unfold State.skipIf; split <;> rfl
@[simp] theorem State.skipIf_started (s : State) (c : Bool) : (s.skipIf c).started = s.started := by
  unfold State.skipIf; split <;> rfl
@[simp] theorem State.skipIf_cfg (s : State) (c : Bool) : (s.skipIf c).cfg = s.cfg := by
  unfold State.skipIf; split <;> rfl
@[simp] theorem State.skipIf_schedule (s : State) (c : Bool) : (s.skipIf c).schedule = s.schedule := by
  unfold State.skipIf; split <;> rfl
@[simp] theorem State.skipIf_draws (s : State) (c : Bool) : (s.skipIf c).draws = s.draws := by
  unfold State.skipIf; split <;> rfl
@[simp] theorem State.skipIf_reg (s : State) (c : Bool) (j : RegIx) : (s.skipIf c).reg j = s.reg j := by
  simp [State.reg]
@[simp] theorem State.skipIf_stackAt (s : State) (c : Bool) (j : Nibble) : (s.skipIf c).stackAt j = s.stackAt j := by
  simp [State.stackAt]
@[simp] theorem State.skipIf_pixel (s : State) (c : Bool) (px : Fin 64) (py : Fin 32) : (s.skipIf c).pixel px py = s.pixel px py := by
  simp [State.pixel]
@[simp] theorem State.skipIf_keyDown (s : State) (c : Bool) (j : Nibble) : (s.skipIf c).keyDown j = s.keyDown j := by
  simp [State.keyDown]
@[simp] theorem State.skipIf_memRead (s : State) (c : Bool) (n : Nat) : (s.skipIf c).memRead n = s.memRead n := by
  simp [State.memRead]
@[simp] theorem State.skipIf_halted (s : State) (c : Bool) : (s.skipIf c).halted = s.halted := by
  simp [State.halted]

/-- A skip moves pc by 2 when its condition holds, and not otherwise. -/
theorem State.skipIf_pc (s : State) (c : Bool) : (s.skipIf c).pc = if c then s.pc + 2 else s.pc := by
  unfold State.skipIf; split <;> rfl

/-! ## Results and flags (R22, R120) -/

@[simp] theorem State.setRegFlag_mem (s : State) (x : RegIx) (r : Byte) (f : Bool) : (s.setRegFlag x r f).mem = s.mem := by
  rfl
@[simp] theorem State.setRegFlag_index (s : State) (x : RegIx) (r : Byte) (f : Bool) : (s.setRegFlag x r f).index = s.index := by
  rfl
@[simp] theorem State.setRegFlag_pc (s : State) (x : RegIx) (r : Byte) (f : Bool) : (s.setRegFlag x r f).pc = s.pc := by
  rfl
@[simp] theorem State.setRegFlag_sp (s : State) (x : RegIx) (r : Byte) (f : Bool) : (s.setRegFlag x r f).sp = s.sp := by
  rfl
@[simp] theorem State.setRegFlag_stack (s : State) (x : RegIx) (r : Byte) (f : Bool) : (s.setRegFlag x r f).stack = s.stack := by
  rfl
@[simp] theorem State.setRegFlag_dt (s : State) (x : RegIx) (r : Byte) (f : Bool) : (s.setRegFlag x r f).dt = s.dt := by
  rfl
@[simp] theorem State.setRegFlag_st (s : State) (x : RegIx) (r : Byte) (f : Bool) : (s.setRegFlag x r f).st = s.st := by
  rfl
@[simp] theorem State.setRegFlag_fb (s : State) (x : RegIx) (r : Byte) (f : Bool) : (s.setRegFlag x r f).fb = s.fb := by
  rfl
@[simp] theorem State.setRegFlag_key (s : State) (x : RegIx) (r : Byte) (f : Bool) : (s.setRegFlag x r f).key = s.key := by
  rfl
@[simp] theorem State.setRegFlag_waitReg (s : State) (x : RegIx) (r : Byte) (f : Bool) : (s.setRegFlag x r f).waitReg = s.waitReg := by
  rfl
@[simp] theorem State.setRegFlag_fault (s : State) (x : RegIx) (r : Byte) (f : Bool) : (s.setRegFlag x r f).fault = s.fault := by
  rfl
@[simp] theorem State.setRegFlag_started (s : State) (x : RegIx) (r : Byte) (f : Bool) : (s.setRegFlag x r f).started = s.started := by
  rfl
@[simp] theorem State.setRegFlag_cfg (s : State) (x : RegIx) (r : Byte) (f : Bool) : (s.setRegFlag x r f).cfg = s.cfg := by
  rfl
@[simp] theorem State.setRegFlag_schedule (s : State) (x : RegIx) (r : Byte) (f : Bool) : (s.setRegFlag x r f).schedule = s.schedule := by
  rfl
@[simp] theorem State.setRegFlag_draws (s : State) (x : RegIx) (r : Byte) (f : Bool) : (s.setRegFlag x r f).draws = s.draws := by
  rfl
@[simp] theorem State.setRegFlag_stackAt (s : State) (x : RegIx) (r : Byte) (f : Bool) (j : Nibble) : (s.setRegFlag x r f).stackAt j = s.stackAt j := by
  simp [State.stackAt]
@[simp] theorem State.setRegFlag_pixel (s : State) (x : RegIx) (r : Byte) (f : Bool) (px : Fin 64) (py : Fin 32) : (s.setRegFlag x r f).pixel px py = s.pixel px py := by
  simp [State.pixel]
@[simp] theorem State.setRegFlag_keyDown (s : State) (x : RegIx) (r : Byte) (f : Bool) (j : Nibble) : (s.setRegFlag x r f).keyDown j = s.keyDown j := by
  simp [State.keyDown]
@[simp] theorem State.setRegFlag_memRead (s : State) (x : RegIx) (r : Byte) (f : Bool) (n : Nat) : (s.setRegFlag x r f).memRead n = s.memRead n := by
  simp [State.memRead]
@[simp] theorem State.setRegFlag_halted (s : State) (x : RegIx) (r : Byte) (f : Bool) : (s.setRegFlag x r f).halted = s.halted := by
  simp [State.halted]

theorem State.setRegFlag_reg (s : State) (x j : RegIx) (r : Byte) (f : Bool) :
    (s.setRegFlag x r f).reg j = if j = regF then flagByte f else if j = x then r else s.reg j := by
  simp [State.setRegFlag, State.setReg_reg]

theorem flagByte_toNat (b : Bool) : (flagByte b).toNat = if b then 1 else 0 := by cases b <;> rfl

theorem flagByte_zero_or_one (b : Bool) : flagByte b = 0#8 ∨ flagByte b = 1#8 := by cases b <;> simp [flagByte]

@[simp] theorem State.setRegLogic_mem (s : State) (x : RegIx) (r : Byte) : (s.setRegLogic x r).mem = s.mem := by
  unfold State.setRegLogic; split <;> rfl
@[simp] theorem State.setRegLogic_index (s : State) (x : RegIx) (r : Byte) : (s.setRegLogic x r).index = s.index := by
  unfold State.setRegLogic; split <;> rfl
@[simp] theorem State.setRegLogic_pc (s : State) (x : RegIx) (r : Byte) : (s.setRegLogic x r).pc = s.pc := by
  unfold State.setRegLogic; split <;> rfl
@[simp] theorem State.setRegLogic_sp (s : State) (x : RegIx) (r : Byte) : (s.setRegLogic x r).sp = s.sp := by
  unfold State.setRegLogic; split <;> rfl
@[simp] theorem State.setRegLogic_stack (s : State) (x : RegIx) (r : Byte) : (s.setRegLogic x r).stack = s.stack := by
  unfold State.setRegLogic; split <;> rfl
@[simp] theorem State.setRegLogic_dt (s : State) (x : RegIx) (r : Byte) : (s.setRegLogic x r).dt = s.dt := by
  unfold State.setRegLogic; split <;> rfl
@[simp] theorem State.setRegLogic_st (s : State) (x : RegIx) (r : Byte) : (s.setRegLogic x r).st = s.st := by
  unfold State.setRegLogic; split <;> rfl
@[simp] theorem State.setRegLogic_fb (s : State) (x : RegIx) (r : Byte) : (s.setRegLogic x r).fb = s.fb := by
  unfold State.setRegLogic; split <;> rfl
@[simp] theorem State.setRegLogic_key (s : State) (x : RegIx) (r : Byte) : (s.setRegLogic x r).key = s.key := by
  unfold State.setRegLogic; split <;> rfl
@[simp] theorem State.setRegLogic_waitReg (s : State) (x : RegIx) (r : Byte) : (s.setRegLogic x r).waitReg = s.waitReg := by
  unfold State.setRegLogic; split <;> rfl
@[simp] theorem State.setRegLogic_fault (s : State) (x : RegIx) (r : Byte) : (s.setRegLogic x r).fault = s.fault := by
  unfold State.setRegLogic; split <;> rfl
@[simp] theorem State.setRegLogic_started (s : State) (x : RegIx) (r : Byte) : (s.setRegLogic x r).started = s.started := by
  unfold State.setRegLogic; split <;> rfl
@[simp] theorem State.setRegLogic_cfg (s : State) (x : RegIx) (r : Byte) : (s.setRegLogic x r).cfg = s.cfg := by
  unfold State.setRegLogic; split <;> rfl
@[simp] theorem State.setRegLogic_schedule (s : State) (x : RegIx) (r : Byte) : (s.setRegLogic x r).schedule = s.schedule := by
  unfold State.setRegLogic; split <;> rfl
@[simp] theorem State.setRegLogic_draws (s : State) (x : RegIx) (r : Byte) : (s.setRegLogic x r).draws = s.draws := by
  unfold State.setRegLogic; split <;> rfl
@[simp] theorem State.setRegLogic_stackAt (s : State) (x : RegIx) (r : Byte) (j : Nibble) : (s.setRegLogic x r).stackAt j = s.stackAt j := by
  simp [State.stackAt]
@[simp] theorem State.setRegLogic_pixel (s : State) (x : RegIx) (r : Byte) (px : Fin 64) (py : Fin 32) : (s.setRegLogic x r).pixel px py = s.pixel px py := by
  simp [State.pixel]
@[simp] theorem State.setRegLogic_keyDown (s : State) (x : RegIx) (r : Byte) (j : Nibble) : (s.setRegLogic x r).keyDown j = s.keyDown j := by
  simp [State.keyDown]
@[simp] theorem State.setRegLogic_memRead (s : State) (x : RegIx) (r : Byte) (n : Nat) : (s.setRegLogic x r).memRead n = s.memRead n := by
  simp [State.memRead]
@[simp] theorem State.setRegLogic_halted (s : State) (x : RegIx) (r : Byte) : (s.setRegLogic x r).halted = s.halted := by
  simp [State.halted]

theorem State.setRegLogic_reg (s : State) (x j : RegIx) (r : Byte) :
    (s.setRegLogic x r).reg j =
      if s.cfg.logicVfReset = true ∧ j = regF then 0x00#8 else if j = x then r else s.reg j := by
  unfold State.setRegLogic
  split <;> rename_i h <;> simp [State.setReg_reg, h]

/-! ## I after FX55 and FX65 (R185, R186) -/

@[simp] theorem State.bumpIndex_mem (s : State) (x : RegIx) : (s.bumpIndex x).mem = s.mem := by
  unfold State.bumpIndex; split <;> rfl
@[simp] theorem State.bumpIndex_v (s : State) (x : RegIx) : (s.bumpIndex x).v = s.v := by
  unfold State.bumpIndex; split <;> rfl
@[simp] theorem State.bumpIndex_pc (s : State) (x : RegIx) : (s.bumpIndex x).pc = s.pc := by
  unfold State.bumpIndex; split <;> rfl
@[simp] theorem State.bumpIndex_sp (s : State) (x : RegIx) : (s.bumpIndex x).sp = s.sp := by
  unfold State.bumpIndex; split <;> rfl
@[simp] theorem State.bumpIndex_stack (s : State) (x : RegIx) : (s.bumpIndex x).stack = s.stack := by
  unfold State.bumpIndex; split <;> rfl
@[simp] theorem State.bumpIndex_dt (s : State) (x : RegIx) : (s.bumpIndex x).dt = s.dt := by
  unfold State.bumpIndex; split <;> rfl
@[simp] theorem State.bumpIndex_st (s : State) (x : RegIx) : (s.bumpIndex x).st = s.st := by
  unfold State.bumpIndex; split <;> rfl
@[simp] theorem State.bumpIndex_fb (s : State) (x : RegIx) : (s.bumpIndex x).fb = s.fb := by
  unfold State.bumpIndex; split <;> rfl
@[simp] theorem State.bumpIndex_key (s : State) (x : RegIx) : (s.bumpIndex x).key = s.key := by
  unfold State.bumpIndex; split <;> rfl
@[simp] theorem State.bumpIndex_waitReg (s : State) (x : RegIx) : (s.bumpIndex x).waitReg = s.waitReg := by
  unfold State.bumpIndex; split <;> rfl
@[simp] theorem State.bumpIndex_fault (s : State) (x : RegIx) : (s.bumpIndex x).fault = s.fault := by
  unfold State.bumpIndex; split <;> rfl
@[simp] theorem State.bumpIndex_started (s : State) (x : RegIx) : (s.bumpIndex x).started = s.started := by
  unfold State.bumpIndex; split <;> rfl
@[simp] theorem State.bumpIndex_cfg (s : State) (x : RegIx) : (s.bumpIndex x).cfg = s.cfg := by
  unfold State.bumpIndex; split <;> rfl
@[simp] theorem State.bumpIndex_schedule (s : State) (x : RegIx) : (s.bumpIndex x).schedule = s.schedule := by
  unfold State.bumpIndex; split <;> rfl
@[simp] theorem State.bumpIndex_draws (s : State) (x : RegIx) : (s.bumpIndex x).draws = s.draws := by
  unfold State.bumpIndex; split <;> rfl
@[simp] theorem State.bumpIndex_reg (s : State) (x : RegIx) (j : RegIx) : (s.bumpIndex x).reg j = s.reg j := by
  simp [State.reg]
@[simp] theorem State.bumpIndex_stackAt (s : State) (x : RegIx) (j : Nibble) : (s.bumpIndex x).stackAt j = s.stackAt j := by
  simp [State.stackAt]
@[simp] theorem State.bumpIndex_pixel (s : State) (x : RegIx) (px : Fin 64) (py : Fin 32) : (s.bumpIndex x).pixel px py = s.pixel px py := by
  simp [State.pixel]
@[simp] theorem State.bumpIndex_keyDown (s : State) (x : RegIx) (j : Nibble) : (s.bumpIndex x).keyDown j = s.keyDown j := by
  simp [State.keyDown]
@[simp] theorem State.bumpIndex_memRead (s : State) (x : RegIx) (n : Nat) : (s.bumpIndex x).memRead n = s.memRead n := by
  simp [State.memRead]
@[simp] theorem State.bumpIndex_halted (s : State) (x : RegIx) : (s.bumpIndex x).halted = s.halted := by
  simp [State.halted]

theorem State.bumpIndex_index (s : State) (x : RegIx) :
    (s.bumpIndex x).index = if s.cfg.loadstoreIncrementsI then s.index + x.setWidth 16 + 1 else s.index := by
  unfold State.bumpIndex; split <;> rfl

/-! ## Consecutive registers (R185, R186) -/

@[simp] theorem State.setRegsFrom_mem (s : State) (j : Nat) (bs : List Byte) : (s.setRegsFrom j bs).mem = s.mem := by
  induction bs generalizing s j with
  | nil => rfl
  | cons b bs ih => simp [State.setRegsFrom, ih]
@[simp] theorem State.setRegsFrom_index (s : State) (j : Nat) (bs : List Byte) : (s.setRegsFrom j bs).index = s.index := by
  induction bs generalizing s j with
  | nil => rfl
  | cons b bs ih => simp [State.setRegsFrom, ih]
@[simp] theorem State.setRegsFrom_pc (s : State) (j : Nat) (bs : List Byte) : (s.setRegsFrom j bs).pc = s.pc := by
  induction bs generalizing s j with
  | nil => rfl
  | cons b bs ih => simp [State.setRegsFrom, ih]
@[simp] theorem State.setRegsFrom_sp (s : State) (j : Nat) (bs : List Byte) : (s.setRegsFrom j bs).sp = s.sp := by
  induction bs generalizing s j with
  | nil => rfl
  | cons b bs ih => simp [State.setRegsFrom, ih]
@[simp] theorem State.setRegsFrom_stack (s : State) (j : Nat) (bs : List Byte) : (s.setRegsFrom j bs).stack = s.stack := by
  induction bs generalizing s j with
  | nil => rfl
  | cons b bs ih => simp [State.setRegsFrom, ih]
@[simp] theorem State.setRegsFrom_dt (s : State) (j : Nat) (bs : List Byte) : (s.setRegsFrom j bs).dt = s.dt := by
  induction bs generalizing s j with
  | nil => rfl
  | cons b bs ih => simp [State.setRegsFrom, ih]
@[simp] theorem State.setRegsFrom_st (s : State) (j : Nat) (bs : List Byte) : (s.setRegsFrom j bs).st = s.st := by
  induction bs generalizing s j with
  | nil => rfl
  | cons b bs ih => simp [State.setRegsFrom, ih]
@[simp] theorem State.setRegsFrom_fb (s : State) (j : Nat) (bs : List Byte) : (s.setRegsFrom j bs).fb = s.fb := by
  induction bs generalizing s j with
  | nil => rfl
  | cons b bs ih => simp [State.setRegsFrom, ih]
@[simp] theorem State.setRegsFrom_key (s : State) (j : Nat) (bs : List Byte) : (s.setRegsFrom j bs).key = s.key := by
  induction bs generalizing s j with
  | nil => rfl
  | cons b bs ih => simp [State.setRegsFrom, ih]
@[simp] theorem State.setRegsFrom_waitReg (s : State) (j : Nat) (bs : List Byte) : (s.setRegsFrom j bs).waitReg = s.waitReg := by
  induction bs generalizing s j with
  | nil => rfl
  | cons b bs ih => simp [State.setRegsFrom, ih]
@[simp] theorem State.setRegsFrom_fault (s : State) (j : Nat) (bs : List Byte) : (s.setRegsFrom j bs).fault = s.fault := by
  induction bs generalizing s j with
  | nil => rfl
  | cons b bs ih => simp [State.setRegsFrom, ih]
@[simp] theorem State.setRegsFrom_started (s : State) (j : Nat) (bs : List Byte) : (s.setRegsFrom j bs).started = s.started := by
  induction bs generalizing s j with
  | nil => rfl
  | cons b bs ih => simp [State.setRegsFrom, ih]
@[simp] theorem State.setRegsFrom_cfg (s : State) (j : Nat) (bs : List Byte) : (s.setRegsFrom j bs).cfg = s.cfg := by
  induction bs generalizing s j with
  | nil => rfl
  | cons b bs ih => simp [State.setRegsFrom, ih]
@[simp] theorem State.setRegsFrom_schedule (s : State) (j : Nat) (bs : List Byte) : (s.setRegsFrom j bs).schedule = s.schedule := by
  induction bs generalizing s j with
  | nil => rfl
  | cons b bs ih => simp [State.setRegsFrom, ih]
@[simp] theorem State.setRegsFrom_draws (s : State) (j : Nat) (bs : List Byte) : (s.setRegsFrom j bs).draws = s.draws := by
  induction bs generalizing s j with
  | nil => rfl
  | cons b bs ih => simp [State.setRegsFrom, ih]
@[simp] theorem State.setRegsFrom_stackAt (s : State) (i : Nat) (bs : List Byte) (j : Nibble) : (s.setRegsFrom i bs).stackAt j = s.stackAt j := by
  simp [State.stackAt]
@[simp] theorem State.setRegsFrom_pixel (s : State) (i : Nat) (bs : List Byte) (px : Fin 64) (py : Fin 32) : (s.setRegsFrom i bs).pixel px py = s.pixel px py := by
  simp [State.pixel]
@[simp] theorem State.setRegsFrom_keyDown (s : State) (i : Nat) (bs : List Byte) (j : Nibble) : (s.setRegsFrom i bs).keyDown j = s.keyDown j := by
  simp [State.keyDown]
@[simp] theorem State.setRegsFrom_memRead (s : State) (i : Nat) (bs : List Byte) (n : Nat) : (s.setRegsFrom i bs).memRead n = s.memRead n := by
  simp [State.memRead]
@[simp] theorem State.setRegsFrom_halted (s : State) (i : Nat) (bs : List Byte) : (s.setRegsFrom i bs).halted = s.halted := by
  simp [State.halted]

/-- Consecutive register writes from V[j] up: the registers in range hold the bytes, the others what they held. -/
theorem State.setRegsFrom_reg (s : State) (j : Nat) (bs : List Byte) (k : RegIx) (h : j + bs.length ≤ 16) :
    (s.setRegsFrom j bs).reg k =
      if hk : j ≤ k.toNat ∧ k.toNat < j + bs.length then bs[k.toNat - j]'(by omega) else s.reg k := by
  induction bs generalizing s j with
  | nil => simp [State.setRegsFrom]
  | cons b bs ih =>
    simp only [List.length_cons] at h ⊢
    rw [State.setRegsFrom, ih _ _ (by omega), State.setReg_reg]
    have hj : (BitVec.ofNat 4 j).toNat = j := by rw [BitVec.toNat_ofNat]; omega
    by_cases hk : k.toNat = j
    · have he : k = BitVec.ofNat 4 j := BitVec.eq_of_toNat_eq (by rw [hj, hk])
      rw [dif_neg (by omega), dif_pos (by omega), if_pos he]
      simp only [hk, Nat.sub_self, List.getElem_cons_zero]
    · have hne : k ≠ BitVec.ofNat 4 j := fun e => hk (by rw [e, hj])
      by_cases hin : j + 1 ≤ k.toNat ∧ k.toNat < j + 1 + bs.length
      · have h3 : k.toNat - j = (k.toNat - (j + 1)) + 1 := by omega
        rw [dif_pos hin, dif_pos (by omega)]
        simp only [h3, List.getElem_cons_succ]
      · rw [dif_neg hin, dif_neg (by omega), if_neg hne]

theorem State.length_regsUpTo (s : State) (x : RegIx) : (s.regsUpTo x).length = x.toNat + 1 := by
  have := x.isLt
  simp [State.regsUpTo]; omega

theorem State.getElem_regsUpTo (s : State) (x j : RegIx) (h : j.toNat < (s.regsUpTo x).length) :
    (s.regsUpTo x)[j.toNat] = s.reg j := by
  simp [State.regsUpTo, State.reg]

/-! ## The return stack (R29) -/

/-- A push succeeds exactly below 16 entries, writes the entry at SP and raises SP. -/
theorem State.push_eq_ok {s t : State} {w : Word} :
    s.push w = .ok t ↔ ∃ h : s.sp.toNat < stackDepth, t = (s.setStack (s.stack.set s.sp.toNat w h)).setSp (s.sp + 1) := by
  unfold State.push
  split <;> rename_i h
  · simp [h, eq_comm]
  · simp [h]

theorem State.push_eq_error {s : State} {w : Word} {d : FaultDetail} :
    s.push w = .error d ↔ stackDepth ≤ s.sp.toNat ∧ d = .stackOverflow := by
  unfold State.push
  split <;> rename_i h
  · simp; omega
  · simp [eq_comm]; omega

/-- A pop succeeds exactly from 1 to 16 entries, answers the entry below SP and lowers SP. -/
theorem State.pop_eq_ok {s t : State} {w : Word} :
    s.pop = .ok (w, t) ↔ 1 ≤ s.sp.toNat ∧ s.sp.toNat ≤ stackDepth ∧
      w = s.stackAt (BitVec.ofNat 4 (s.sp.toNat - 1)) ∧ t = s.setSp (s.sp - 1) := by
  have hlt := s.sp.isLt
  have key : s.sp ≠ 0x00#8 → (s.sp - 1).toNat = s.sp.toNat - 1 ∧ 1 ≤ s.sp.toNat := by
    intro h
    have h0 : s.sp.toNat ≠ 0 := fun e => h (BitVec.eq_of_toNat_eq (by simpa using e))
    refine ⟨?_, by omega⟩
    rw [BitVec.toNat_sub]
    simp
    omega
  unfold State.pop
  split <;> rename_i h
  · simp [h]
  · obtain ⟨h1, h2⟩ := key h
    split <;> rename_i h3
    · have h3' : s.sp.toNat - 1 < 16 := by rw [h1] at h3; exact h3
      have h4 : (s.sp.toNat - 1) % 16 = s.sp.toNat - 1 := by omega
      have h5 : s.sp.toNat ≤ stackDepth := by simp only [stackDepth]; omega
      simp only [Except.ok.injEq, Prod.mk.injEq, h2, h5, true_and, State.stackAt, h1, BitVec.toNat_ofNat]
      simp only [h4, show (2 ^ 4 : Nat) = 16 from rfl]
      simp [eq_comm]
    · simp; omega

theorem State.pop_eq_error {s : State} {d : FaultDetail} :
    s.pop = .error d ↔ (s.sp.toNat = 0 ∧ d = .stackUnderflow) ∨ (stackDepth < s.sp.toNat ∧ d = .stackOverflow) := by
  have hlt := s.sp.isLt
  unfold State.pop
  split <;> rename_i h
  · simp [h, eq_comm]
  · have h0 : s.sp.toNat ≠ 0 := fun e => h (BitVec.eq_of_toNat_eq (by simpa using e))
    have h1 : (s.sp - 1).toNat = s.sp.toNat - 1 := by rw [BitVec.toNat_sub]; simp; omega
    split <;> rename_i h3
    · simp [h0]; omega
    · simp [h0, eq_comm]; omega

/-! ## Ranges of addresses (R187) -/

theorem rangeFault_eq_none {a n : Nat} : rangeFault a n = none ↔ n = 0 ∨ a + n ≤ memSize := by
  unfold rangeFault
  split <;> simp <;> omega

theorem rangeFault_eq_some {a n b : Nat} : rangeFault a n = some b ↔ 0 < n ∧ memSize < a + n ∧ b = max a memSize := by
  unfold rangeFault
  split
  · simp_all [eq_comm]
  · simp; omega

/-! ## Key indices and the key-wait (R163, R166) -/

theorem keyIndex_eq_some {b : Byte} {k : Nibble} : keyIndex b = some k ↔ b.toNat ≤ 15 ∧ k = b.setWidth 4 := by
  unfold keyIndex
  split <;> simp [eq_comm] <;> omega

theorem keyIndex_eq_none {b : Byte} : keyIndex b = none ↔ 15 < b.toNat := by
  unfold keyIndex
  split <;> simp <;> omega

theorem mem_keyIndices (k : Nibble) : k ∈ keyIndices := by revert k; decide

theorem State.lowestKey_eq_none {s : State} : s.lowestKey = none ↔ ∀ k : Nibble, s.keyDown k = false := by
  simp [State.lowestKey, mem_keyIndices]

/-- The lowest key is pressed, and every key below it is not. -/
theorem State.lowestKey_spec {s : State} {k : Nibble} (h : s.lowestKey = some k) :
    s.keyDown k = true ∧ ∀ j : Nibble, j.toNat < k.toNat → s.keyDown j = false := by
  refine ⟨List.find?_some h, fun j hj => ?_⟩
  obtain ⟨_, i, hi, hk, hall⟩ := List.find?_eq_some_iff_getElem.mp h
  have hidx : ∀ n (hn : n < keyIndices.length), keyIndices[n].toNat = n := by decide
  have hki : k.toNat = i := by rw [← hk, hidx]
  have hjl : j.toNat < keyIndices.length := by simpa [keyIndices] using j.isLt
  have hj' : keyIndices[j.toNat] = j := BitVec.eq_of_toNat_eq (by rw [hidx])
  have := hall j.toNat (by omega)
  simpa [hj'] using this

/-- What KEYWAIT_PICK answers: nothing when no key is pressed, else a pressed key. -/
theorem State.pickKey_eq_none {s : State} : s.pickKey = none ↔ ∀ k : Nibble, s.keyDown k = false := by
  rw [← State.lowestKey_eq_none]
  unfold State.pickKey
  cases hl : s.lowestKey with
  | none => simp
  | some k =>
    simp only [reduceCtorEq, iff_false]
    cases s.cfg.keywaitPick with
    | lowest => simp
    | chosen => simp only; split <;> simp

theorem State.pickKey_pressed {s : State} {k : Nibble} (h : s.pickKey = some k) : s.keyDown k = true := by
  unfold State.pickKey at h
  cases hl : s.lowestKey with
  | none => simp [hl] at h
  | some l =>
    have hp := (State.lowestKey_spec hl).1
    simp only [hl] at h
    split at h
    · simp_all
    · split at h <;> simp_all

/-! ## Fetch (R57) -/

/-- A fetch answers a word exactly when both bytes are below 4096, the first one high. -/
theorem State.fetch_eq_ok {s : State} {w : Word} :
    s.fetch = .ok w ↔ s.pc.toNat + 1 < memSize ∧
      w = wordOfBytes (s.mem.read s.pc.toNat) (s.mem.read (s.pc.toNat + 1)) := by
  unfold State.fetch State.memRead
  by_cases h1 : s.pc.toNat < memSize
  · by_cases h2 : s.pc.toNat + 1 < memSize
    · simp only [h1, h2, if_true, Except.ok.injEq, true_and, eq_comm]
    · simp [h1, h2]
  · have h2 : ¬ s.pc.toNat + 1 < memSize := by omega
    simp [h1]; omega

/-- A fetch fails on the first offending address. -/
theorem State.fetch_eq_error {s : State} {a : Nat} :
    s.fetch = .error a ↔ memSize ≤ s.pc.toNat + 1 ∧ a = max s.pc.toNat memSize := by
  unfold State.fetch State.memRead
  by_cases h1 : s.pc.toNat < memSize
  · by_cases h2 : s.pc.toNat + 1 < memSize
    · simp [h1, h2]
    · simp [h1, h2]
      omega
  · simp [h1]
    omega

end Sys2Proof.Machine
end

