-- ==== Sys2Proof/Laws/Draw.lean ====
section
/-! SUPPORT. What the sprite engine does to each pixel, and when it reports a collision (spec/42_display.md R141, R144). -/

namespace Sys2Proof.Machine

/-! ## Columns and rows do not meet themselves (R144) -/

theorem column_inj {x c d : Nat} (hc : c < 8) (hd : d < 8) (h : wrapX (x + c) = wrapX (x + d)) : c = d := by
  have := congrArg Fin.val h
  simp only [wrapX] at this
  omega

theorem row_inj {y r q : Nat} (hr : r < 32) (hq : q < 32) (h : wrapY (y + r) = wrapY (y + q)) : r = q := by
  have := congrArg Fin.val h
  simp only [wrapY] at this
  omega

/-! ## One row -/

/-- A pixel under the columns c to c + n - 1 of row `r` toggles by its bit. -/
theorem drawCols_hit (x y r : Nat) (b : Byte) (n c k : Nat) (acc : Framebuffer × Bool) (hcn : c + n ≤ 8) (hk : c ≤ k ∧ k < c + n) :
    (drawCols x y r b c n acc).1.pixel (wrapX (x + k)) (wrapY (y + r)) =
      (acc.1.pixel (wrapX (x + k)) (wrapY (y + r)) ^^ b.getLsbD (7 - k)) := by
  induction n generalizing c acc with
  | zero => omega
  | succ n ih =>
    rw [drawCols]
    by_cases hkc : k = c
    · subst hkc
      clear ih
      have miss : ∀ (m d : Nat) (acc' : Framebuffer × Bool), k < d → d + m ≤ 8 →
          (drawCols x y r b d m acc').1.pixel (wrapX (x + k)) (wrapY (y + r)) =
            acc'.1.pixel (wrapX (x + k)) (wrapY (y + r)) := by
        intro m
        induction m with
        | zero => intros; rfl
        | succ m ih =>
          intro d acc' hd hm
          rw [drawCols, ih _ _ (by omega) (by omega)]
          have hne : wrapX (x + k) ≠ wrapX (x + d) := fun h => by
            have := column_inj (by omega) (by omega) h
            omega
          simp [drawBit, Framebuffer.pixel_setPixel, hne]
      rw [miss _ _ _ (by omega) (by omega)]
      simp [drawBit, Framebuffer.pixel_setPixel]
    · rw [ih _ _ (by omega) (by omega)]
      have hne : wrapX (x + k) ≠ wrapX (x + c) := fun h => hkc (column_inj (by omega) (by omega) h)
      simp [drawBit, Framebuffer.pixel_setPixel, hne]

/-- A pixel under none of the columns of row `r` is untouched. -/
theorem drawCols_miss (x y r : Nat) (b : Byte) (n c : Nat) (acc : Framebuffer × Bool) (px : Fin 64) (py : Fin 32)
    (h : ∀ k, c ≤ k → k < c + n → ¬ (px = wrapX (x + k) ∧ py = wrapY (y + r))) :
    (drawCols x y r b c n acc).1.pixel px py = acc.1.pixel px py := by
  induction n generalizing c acc with
  | zero => rfl
  | succ n ih =>
    rw [drawCols, ih _ _ (fun k hk hk' => h k (by omega) (by omega))]
    simp only [drawBit, Framebuffer.pixel_setPixel]
    rw [if_neg (h c (by omega) (by omega))]

/-- A row reports a collision when it did before, or when one of its 1 bits meets a pixel that is on. -/
theorem drawCols_collision (x y r : Nat) (b : Byte) (n c : Nat) (acc : Framebuffer × Bool) (hcn : c + n ≤ 8) :
    (drawCols x y r b c n acc).2 = true ↔ acc.2 = true ∨ ∃ k, c ≤ k ∧ k < c + n ∧ b.getLsbD (7 - k) = true ∧
      acc.1.pixel (wrapX (x + k)) (wrapY (y + r)) = true := by
  induction n generalizing c acc with
  | zero => simp [drawCols]; omega
  | succ n ih =>
    rw [drawCols, ih _ _ (by omega)]
    have keep : ∀ k, c + 1 ≤ k → k < c + 1 + n →
        (drawBit x y r c (b.getLsbD (7 - c)) acc).1.pixel (wrapX (x + k)) (wrapY (y + r)) =
          acc.1.pixel (wrapX (x + k)) (wrapY (y + r)) := by
      intro k hk hk'
      have hne : wrapX (x + k) ≠ wrapX (x + c) := fun h => by
        have := column_inj (by omega) (by omega) h
        omega
      simp [drawBit, Framebuffer.pixel_setPixel, hne]
    constructor
    · rintro (h | ⟨k, hk, hk', hb, hp⟩)
      · simp only [drawBit, Bool.or_eq_true, Bool.and_eq_true] at h
        rcases h with h | ⟨h1, h2⟩
        · exact .inl h
        · exact .inr ⟨c, le_refl c, by omega, h1, h2⟩
      · exact .inr ⟨k, by omega, by omega, hb, by rw [← keep k hk hk']; exact hp⟩
    · rintro (h | ⟨k, hk, hk', hb, hp⟩)
      · exact .inl (by simp [drawBit, h])
      · by_cases hkc : k = c
        · subst hkc
          exact .inl (by simp [drawBit, hb, hp])
        · exact .inr ⟨k, by omega, by omega, hb, by rw [keep k (by omega) (by omega)]; exact hp⟩

/-! ## All rows -/

theorem drawRows_hit (x y : Nat) (bs : List Byte) (r q k : Nat) (acc : Framebuffer × Bool) (hr : r + bs.length ≤ 32)
    (hq : r ≤ q ∧ q < r + bs.length) (hk : k < 8) :
    (drawRows x y r bs acc).1.pixel (wrapX (x + k)) (wrapY (y + q)) =
      (acc.1.pixel (wrapX (x + k)) (wrapY (y + q)) ^^ (bs[q - r]'(by omega)).getLsbD (7 - k)) := by
  induction bs generalizing r acc with
  | nil => simp at hq; omega
  | cons b bs ih =>
    simp only [List.length_cons] at hr hq
    rw [drawRows]
    by_cases hqr : q = r
    · subst hqr
      clear ih
      have miss : ∀ (cs : List Byte) (d : Nat) (acc' : Framebuffer × Bool), q < d → d + cs.length ≤ 32 →
          (drawRows x y d cs acc').1.pixel (wrapX (x + k)) (wrapY (y + q)) =
            acc'.1.pixel (wrapX (x + k)) (wrapY (y + q)) := by
        intro cs
        induction cs with
        | nil => intros; rfl
        | cons c cs ih =>
          intro d acc' hd hm
          simp only [List.length_cons] at hm
          rw [drawRows, ih _ _ (by omega) (by omega)]
          apply drawCols_miss
          rintro j _ _ ⟨-, h⟩
          have := row_inj (by omega) (by omega) h
          omega
      rw [miss _ _ _ (by omega) (by omega), drawCols_hit x y q b 8 0 k acc (by omega) (by omega)]
      simp
    · rw [ih _ _ (by omega) (by omega), drawCols_miss]
      · have h3 : q - r = (q - (r + 1)) + 1 := by omega
        simp only [h3, List.getElem_cons_succ]
      · rintro j _ _ ⟨-, h⟩
        exact hqr (row_inj (by omega) (by omega) h)

theorem drawRows_miss (x y : Nat) (bs : List Byte) (r : Nat) (acc : Framebuffer × Bool) (px : Fin 64) (py : Fin 32)
    (h : ∀ q k, r ≤ q → q < r + bs.length → k < 8 → ¬ (px = wrapX (x + k) ∧ py = wrapY (y + q))) :
    (drawRows x y r bs acc).1.pixel px py = acc.1.pixel px py := by
  induction bs generalizing r acc with
  | nil => rfl
  | cons b bs ih =>
    simp only [List.length_cons] at h
    rw [drawRows, ih _ _ (fun q k hq hq' hk => h q k (by omega) (by omega) hk)]
    exact drawCols_miss _ _ _ _ _ _ _ _ _ (fun k _ hk => h r k (by omega) (by omega) (by omega))

theorem drawRows_collision (x y : Nat) (bs : List Byte) (r : Nat) (acc : Framebuffer × Bool) (hr : r + bs.length ≤ 32) :
    (drawRows x y r bs acc).2 = true ↔ acc.2 = true ∨ ∃ q k, ∃ h : r ≤ q ∧ q < r + bs.length, k < 8 ∧
      (bs[q - r]'(by omega)).getLsbD (7 - k) = true ∧
      acc.1.pixel (wrapX (x + k)) (wrapY (y + q)) = true := by
  induction bs generalizing r acc with
  | nil => simp [drawRows]
  | cons b bs ih =>
    simp only [List.length_cons] at hr ⊢
    rw [drawRows, ih _ _ (by omega), drawCols_collision _ _ _ _ _ _ _ (by omega)]
    have keep : ∀ q k, r + 1 ≤ q → q < r + 1 + bs.length →
        (drawCols x y r b 0 8 acc).1.pixel (wrapX (x + k)) (wrapY (y + q)) =
          acc.1.pixel (wrapX (x + k)) (wrapY (y + q)) := by
      intro q k hq hq'
      apply drawCols_miss
      rintro j _ _ ⟨-, h⟩
      have := row_inj (by omega) (by omega) h
      omega
    constructor
    · rintro ((h | ⟨k, _, hk, hb, hp⟩) | ⟨q, k, hq, hk, hb, hp⟩)
      · exact .inl h
      · exact .inr ⟨r, k, by omega, by omega, by simpa using hb, hp⟩
      · have h3 : q - r = (q - (r + 1)) + 1 := by omega
        refine .inr ⟨q, k, by omega, hk, ?_, by rw [← keep q k hq.1 hq.2]; exact hp⟩
        simpa only [h3, List.getElem_cons_succ] using hb
    · rintro (h | ⟨q, k, hq, hk, hb, hp⟩)
      · exact .inl (.inl h)
      · by_cases hqr : q = r
        · subst hqr
          exact .inl (.inr ⟨k, by omega, by omega, by simpa using hb, hp⟩)
        · have h3 : q - r = (q - (r + 1)) + 1 := by omega
          refine .inr ⟨q, k, by omega, hk, ?_, by rw [keep q k (by omega) (by omega)]; exact hp⟩
          simpa only [h3, List.getElem_cons_succ] using hb

/-! ## draw_sprite -/

/-- A pixel under row q, column k of the sprite toggles by its bit. -/
theorem drawSprite_hit (fb : Framebuffer) (x y : Nat) (bs : List Byte) (q k : Nat) (hb : bs.length ≤ 32) (hq : q < bs.length) (hk : k < 8) :
    (drawSprite fb x y bs).1.pixel (wrapX (x + k)) (wrapY (y + q)) =
      (fb.pixel (wrapX (x + k)) (wrapY (y + q)) ^^ bs[q].getLsbD (7 - k)) := by
  have := drawRows_hit x y bs 0 q k (fb, false) (by omega) (by omega) hk
  simpa [drawSprite] using this

/-- A pixel under no bit of the sprite is untouched. -/
theorem drawSprite_miss (fb : Framebuffer) (x y : Nat) (bs : List Byte) (px : Fin 64) (py : Fin 32)
    (h : ∀ q k, q < bs.length → k < 8 → ¬ (px = wrapX (x + k) ∧ py = wrapY (y + q))) :
    (drawSprite fb x y bs).1.pixel px py = fb.pixel px py :=
  drawRows_miss x y bs 0 (fb, false) px py (fun q k _ hq hk => h q k (by omega) hk)

/-- A collision is some 1 bit of the sprite on a pixel that was on (R144). -/
theorem drawSprite_collision (fb : Framebuffer) (x y : Nat) (bs : List Byte) (hb : bs.length ≤ 32) :
    (drawSprite fb x y bs).2 = true ↔ ∃ q k, ∃ h : q < bs.length, k < 8 ∧ bs[q].getLsbD (7 - k) = true ∧
      fb.pixel (wrapX (x + k)) (wrapY (y + q)) = true := by
  rw [drawSprite, drawRows_collision _ _ _ _ _ (by omega)]
  simp only [Bool.false_eq_true, false_or]
  constructor
  · rintro ⟨q, k, h, hk, hb, hp⟩
    exact ⟨q, k, by omega, hk, by simpa using hb, hp⟩
  · rintro ⟨q, k, h, hk, hb, hp⟩
    exact ⟨q, k, by omega, hk, by simpa using hb, hp⟩

end Sys2Proof.Machine
end

