-- ==== Sys2Proof/Laws/Exec.lean ====
section
/-! SUPPORT. What an instruction can do to the run state, said once (spec/60_exceptions.md R201, R203, R206). -/

namespace Sys2Proof.Machine

/-- A next state of exec is the old one with a fault record of one of the causes of R201, or one whose fault,
`started`, configuration, schedule and keys are the old ones. -/
theorem exec_eq_next {i : Instr} {s t : State} (h : exec i s = .next t) :
    (∃ k a d, t = s.raiseAt i k a d ∧
      ((k = .unsupportedOpcode ∧ a = none ∧ d = .decode) ∨
       (k = .outOfBoundsAccess ∧ a = none ∧ (d = .stackOverflow ∨ d = .stackUnderflow)) ∨
       (k = .outOfBoundsAccess ∧ (∃ n, a = some n ∧ memSize ≤ n) ∧ (d = .read ∨ d = .write)) ∨
       (k = .outOfBoundsAccess ∧ (∃ n, a = some n ∧ 15 < n ∧ n < 256) ∧ d = .keyIndex))) ∨
    (t.fault = s.fault ∧ t.started = s.started ∧ t.cfg = s.cfg ∧ t.schedule = s.schedule ∧ t.key = s.key) := by
  cases i
  case sys nnn =>
    simp only [exec, execSys] at h
    split at h <;> cases h
    · exact .inl ⟨_, _, _, rfl, .inl ⟨rfl, rfl, rfl⟩⟩
    · exact .inr ⟨rfl, rfl, rfl, rfl, rfl⟩
  case ret =>
    simp only [exec, execRet] at h
    split at h <;> cases h
    · rename_i he; rw [State.pop_eq_ok] at he; obtain ⟨-, -, -, rfl⟩ := he; exact .inr ⟨rfl, rfl, rfl, rfl, rfl⟩
    · rename_i he; rw [State.pop_eq_error] at he; exact .inl ⟨_, _, _, rfl, .inr (.inl ⟨rfl, rfl, by rcases he with h | h <;> simp [h.2]⟩)⟩
  case call nnn =>
    simp only [exec, execCall] at h
    split at h <;> cases h
    · rename_i he; rw [State.push_eq_ok] at he; obtain ⟨-, rfl⟩ := he; exact .inr ⟨rfl, rfl, rfl, rfl, rfl⟩
    · rename_i he; rw [State.push_eq_error] at he; exact .inl ⟨_, _, _, rfl, .inr (.inl ⟨rfl, rfl, by simp [he.2]⟩)⟩
  case drw x y n =>
    simp only [exec, execDrw] at h
    split at h <;> cases h
    · rename_i he; rw [rangeFault_eq_some] at he; exact .inl ⟨_, _, _, rfl, .inr (.inr (.inl ⟨rfl, ⟨_, rfl, by omega⟩, .inl rfl⟩))⟩
    · exact .inr ⟨rfl, rfl, rfl, rfl, rfl⟩
  case ldB x =>
    simp only [exec, execLdB] at h
    split at h <;> cases h
    · rename_i he; rw [rangeFault_eq_some] at he; exact .inl ⟨_, _, _, rfl, .inr (.inr (.inl ⟨rfl, ⟨_, rfl, by omega⟩, .inr rfl⟩))⟩
    · exact .inr ⟨rfl, rfl, rfl, rfl, rfl⟩
  case ldMemX x =>
    simp only [exec, execLdMemX] at h
    split at h <;> cases h
    · rename_i he; rw [rangeFault_eq_some] at he; exact .inl ⟨_, _, _, rfl, .inr (.inr (.inl ⟨rfl, ⟨_, rfl, by omega⟩, .inr rfl⟩))⟩
    · right; simp [State.store]
  case ldXMem x =>
    simp only [exec, execLdXMem] at h
    split at h <;> cases h
    · rename_i he; rw [rangeFault_eq_some] at he; exact .inl ⟨_, _, _, rfl, .inr (.inr (.inl ⟨rfl, ⟨_, rfl, by omega⟩, .inl rfl⟩))⟩
    · right; simp
  case skp x =>
    simp only [exec, execSkp] at h
    split at h <;> cases h
    · right; simp
    · rename_i he; rw [keyIndex_eq_none] at he; exact .inl ⟨_, _, _, rfl, .inr (.inr (.inr ⟨rfl, ⟨_, rfl, he, (s.reg x).isLt⟩, rfl⟩))⟩
  case sknp x =>
    simp only [exec, execSknp] at h
    split at h <;> cases h
    · right; simp
    · rename_i he; rw [keyIndex_eq_none] at he; exact .inl ⟨_, _, _, rfl, .inr (.inr (.inr ⟨rfl, ⟨_, rfl, he, (s.reg x).isLt⟩, rfl⟩))⟩
  case ldXK x =>
    simp only [exec, execLdXK] at h
    split at h <;> cases h <;> exact .inr ⟨rfl, rfl, rfl, rfl, rfl⟩
  all_goals
    simp only [exec] at h
    first
    | (unfold execCls at h) | (unfold execJp at h) | (unfold execSeImm at h) | (unfold execSneImm at h)
    | (unfold execSeReg at h) | (unfold execSneReg at h) | (unfold execJpV0 at h) | (unfold execLdImm at h)
    | (unfold execAddImm at h) | (unfold execLdReg at h) | (unfold execOrReg at h) | (unfold execAndReg at h)
    | (unfold execXorReg at h) | (unfold execAddReg at h) | (unfold execSubReg at h) | (unfold execShr at h)
    | (unfold execSubn at h) | (unfold execShl at h) | (unfold execRnd at h) | (unfold execLdXDt at h)
    | (unfold execLdDtX at h) | (unfold execLdStX at h) | (unfold execLdI at h) | (unfold execAddI at h) | (unfold execLdF at h)
    cases h
    right
    simp

end Sys2Proof.Machine
end

