-- ==== Sys2Proof/Laws/Operands.lean ====
section
/-! SUPPORT. The operand forms and the flags as numbers, and what each host operation but the cycle leaves. -/

namespace Sys2Proof.Machine

/-! ## Operand forms -/

@[simp] theorem toNat_addrOf (nnn : Addr) : (addrOf nnn).toNat = nnn.toNat := by
  have := nnn.isLt
  simp [addrOf]; omega

@[simp] theorem toNat_wide (b : Byte) : (wide b).toNat = b.toNat := by
  have := b.isLt
  simp [wide]; omega

theorem toNat_glyphAddress (b : Byte) : (glyphAddress b).toNat = 5 * b.toNat := by
  have := b.isLt
  rw [glyphAddress, BitVec.toNat_mul, toNat_wide]
  exact Nat.mod_eq_of_lt (by show 5 * b.toNat < 65536; omega)

@[simp] theorem length_bcdDigits (b : Byte) : (bcdDigits b).length = 3 := rfl

/-! ## Flags -/

theorem toNat_shiftedOutLow (b : Byte) : (flagByte (shiftedOutLow b)).toNat = b.toNat % 2 := by
  rw [flagByte_toNat, shiftedOutLow, BitVec.getLsbD, Nat.testBit_zero]
  have := Nat.mod_two_eq_zero_or_one b.toNat
  by_cases h : b.toNat % 2 = 1
  · simp [h]
  · simp only [h, decide_false, Bool.false_eq_true, if_false]; omega

theorem toNat_shiftedOutHigh (b : Byte) : (flagByte (shiftedOutHigh b)).toNat = b.toNat / 128 := by
  have := b.isLt
  have hd : b.toNat / 128 = 0 ∨ b.toNat / 128 = 1 := by omega
  rw [flagByte_toNat, shiftedOutHigh, BitVec.getLsbD, Nat.testBit, Nat.shiftRight_eq_div_pow]
  rcases hd with h | h <;> simp [h]

/-! ## The host operations -/

/-- One tick takes one from a timer that is not 0 (R217). -/
theorem toNat_countDown (b : Byte) : (countDown b).toNat = b.toNat - 1 := by
  unfold countDown
  split
  · rename_i h; simp [h]
  · rename_i h
    have : b.toNat ≠ 0 := fun e => h (BitVec.eq_of_toNat_eq (by simpa using e))
    have := b.isLt
    rw [BitVec.toNat_sub]; simp; omega

/-- A press of a key 0 to 15 sets it, and hands it to the register that waits (R219, R220). -/
theorem State.press_of_le (s : State) {k : Nat} (h : k ≤ 15) :
    s.press k = (s.setKey (BitVec.ofNat 4 k) true).completeWait (BitVec.ofNat 4 k) := by
  unfold State.press
  rw [if_neg (by omega)]

/-- A release of a key 0 to 15 clears it, and nothing else (R219, R220). -/
theorem State.release_of_le (s : State) {k : Nat} (h : k ≤ 15) : s.release k = s.setKey (BitVec.ofNat 4 k) false := by
  unfold State.release
  rw [if_neg (by omega)]

/-- A load that fits, before the first cycle, is a store (R52). -/
theorem State.loadBinary_of_fits (s : State) (data : List Byte) (offset : Nat) (h1 : s.started = false) (h2 : s.fault = none)
    (h3 : offset + data.length ≤ memSize) : s.loadBinary data offset = s.store offset data := by
  unfold State.loadBinary
  rw [if_neg (by simp [h1, h2]), if_neg (by omega)]

/-- A load that does not fit, before the first cycle, raises ResourceLoadFailure (R52). -/
theorem State.loadBinary_of_overflow (s : State) (data : List Byte) (offset : Nat) (h1 : s.started = false) (h2 : s.fault = none)
    (h3 : memSize < offset + data.length) :
    s.loadBinary data offset = s.raise .resourceLoadFailure none none (some offset) .load := by
  unfold State.loadBinary
  rw [if_neg (by simp [h1, h2]), if_pos h3]

end Sys2Proof.Machine
end

