-- ==== Sys2Proof/Laws/PerInstr.lean ====
section
/-! SUPPORT. The opcode map (spec/30_encoding.md R76), instruction by instruction: its word matches its row. -/

namespace Sys2Proof.Laws

/-! ## The three masks of R76 -/

theorem mask_op (w : Word) : w &&& 0xF000#16 = encA (opOf w) 0x000 := by
  apply BitVec.eq_of_getLsbD_eq
  intro i hi
  simp only [encA, opOf, BitVec.getLsbD_and, BitVec.getLsbD_append, BitVec.getLsbD_extractLsb']
  interval_cases i <;> simp

theorem mask_op_n (w : Word) : w &&& 0xF00F#16 = encRR (opOf w) 0x0 0x0 (nOf w) := by
  apply BitVec.eq_of_getLsbD_eq
  intro i hi
  simp only [encRR, opOf, nOf, BitVec.getLsbD_and, BitVec.getLsbD_append, BitVec.getLsbD_extractLsb']
  interval_cases i <;> simp

theorem mask_op_kk (w : Word) : w &&& 0xF0FF#16 = encRF (opOf w) 0x0 (kkOf w) := by
  apply BitVec.eq_of_getLsbD_eq
  intro i hi
  simp only [encRF, opOf, kkOf, BitVec.getLsbD_and, BitVec.getLsbD_append, BitVec.getLsbD_extractLsb']
  interval_cases i <;> simp

/-! ## The family -/

/-- The instruction's word, masked by its row of R76, is the row's match value. -/
def OpcodeMap.Statement (i : Instr) : Prop := encode i &&& (rowOf i).2 = (rowOf i).1

theorem OpcodeMap.sys (nnn : Addr) : OpcodeMap.Statement (.sys nnn) := by
  exact (mask_op _).trans (by simp [encode, rowOf]; rfl)
theorem OpcodeMap.cls : OpcodeMap.Statement .cls := by unfold OpcodeMap.Statement; decide
theorem OpcodeMap.ret : OpcodeMap.Statement .ret := by unfold OpcodeMap.Statement; decide
theorem OpcodeMap.jp (nnn : Addr) : OpcodeMap.Statement (.jp nnn) := by
  exact (mask_op _).trans (by simp [encode, rowOf]; rfl)
theorem OpcodeMap.call (nnn : Addr) : OpcodeMap.Statement (.call nnn) := by
  exact (mask_op _).trans (by simp [encode, rowOf]; rfl)
theorem OpcodeMap.seImm (x : RegIx) (kk : Byte) : OpcodeMap.Statement (.seImm x kk) := by
  exact (mask_op _).trans (by simp [encode, rowOf]; rfl)
theorem OpcodeMap.sneImm (x : RegIx) (kk : Byte) : OpcodeMap.Statement (.sneImm x kk) := by
  exact (mask_op _).trans (by simp [encode, rowOf]; rfl)
theorem OpcodeMap.seReg (x y : RegIx) : OpcodeMap.Statement (.seReg x y) := by
  exact (mask_op_n _).trans (by simp [encode, rowOf]; rfl)
theorem OpcodeMap.ldImm (x : RegIx) (kk : Byte) : OpcodeMap.Statement (.ldImm x kk) := by
  exact (mask_op _).trans (by simp [encode, rowOf]; rfl)
theorem OpcodeMap.addImm (x : RegIx) (kk : Byte) : OpcodeMap.Statement (.addImm x kk) := by
  exact (mask_op _).trans (by simp [encode, rowOf]; rfl)
theorem OpcodeMap.ldReg (x y : RegIx) : OpcodeMap.Statement (.ldReg x y) := by
  exact (mask_op_n _).trans (by simp [encode, rowOf]; rfl)
theorem OpcodeMap.orReg (x y : RegIx) : OpcodeMap.Statement (.orReg x y) := by
  exact (mask_op_n _).trans (by simp [encode, rowOf]; rfl)
theorem OpcodeMap.andReg (x y : RegIx) : OpcodeMap.Statement (.andReg x y) := by
  exact (mask_op_n _).trans (by simp [encode, rowOf]; rfl)
theorem OpcodeMap.xorReg (x y : RegIx) : OpcodeMap.Statement (.xorReg x y) := by
  exact (mask_op_n _).trans (by simp [encode, rowOf]; rfl)
theorem OpcodeMap.addReg (x y : RegIx) : OpcodeMap.Statement (.addReg x y) := by
  exact (mask_op_n _).trans (by simp [encode, rowOf]; rfl)
theorem OpcodeMap.subReg (x y : RegIx) : OpcodeMap.Statement (.subReg x y) := by
  exact (mask_op_n _).trans (by simp [encode, rowOf]; rfl)
theorem OpcodeMap.shr (x y : RegIx) : OpcodeMap.Statement (.shr x y) := by
  exact (mask_op_n _).trans (by simp [encode, rowOf]; rfl)
theorem OpcodeMap.subn (x y : RegIx) : OpcodeMap.Statement (.subn x y) := by
  exact (mask_op_n _).trans (by simp [encode, rowOf]; rfl)
theorem OpcodeMap.shl (x y : RegIx) : OpcodeMap.Statement (.shl x y) := by
  exact (mask_op_n _).trans (by simp [encode, rowOf]; rfl)
theorem OpcodeMap.sneReg (x y : RegIx) : OpcodeMap.Statement (.sneReg x y) := by
  exact (mask_op_n _).trans (by simp [encode, rowOf]; rfl)
theorem OpcodeMap.ldI (nnn : Addr) : OpcodeMap.Statement (.ldI nnn) := by
  exact (mask_op _).trans (by simp [encode, rowOf]; rfl)
theorem OpcodeMap.jpV0 (nnn : Addr) : OpcodeMap.Statement (.jpV0 nnn) := by
  exact (mask_op _).trans (by simp [encode, rowOf]; rfl)
theorem OpcodeMap.rnd (x : RegIx) (kk : Byte) : OpcodeMap.Statement (.rnd x kk) := by
  exact (mask_op _).trans (by simp [encode, rowOf]; rfl)
theorem OpcodeMap.drw (x y : RegIx) (n : Nibble) : OpcodeMap.Statement (.drw x y n) := by
  exact (mask_op _).trans (by simp [encode, rowOf]; rfl)
theorem OpcodeMap.skp (x : RegIx) : OpcodeMap.Statement (.skp x) := by
  exact (mask_op_kk _).trans (by simp [encode, rowOf]; rfl)
theorem OpcodeMap.sknp (x : RegIx) : OpcodeMap.Statement (.sknp x) := by
  exact (mask_op_kk _).trans (by simp [encode, rowOf]; rfl)
theorem OpcodeMap.ldXDt (x : RegIx) : OpcodeMap.Statement (.ldXDt x) := by
  exact (mask_op_kk _).trans (by simp [encode, rowOf]; rfl)
theorem OpcodeMap.ldXK (x : RegIx) : OpcodeMap.Statement (.ldXK x) := by
  exact (mask_op_kk _).trans (by simp [encode, rowOf]; rfl)
theorem OpcodeMap.ldDtX (x : RegIx) : OpcodeMap.Statement (.ldDtX x) := by
  exact (mask_op_kk _).trans (by simp [encode, rowOf]; rfl)
theorem OpcodeMap.ldStX (x : RegIx) : OpcodeMap.Statement (.ldStX x) := by
  exact (mask_op_kk _).trans (by simp [encode, rowOf]; rfl)
theorem OpcodeMap.addI (x : RegIx) : OpcodeMap.Statement (.addI x) := by
  exact (mask_op_kk _).trans (by simp [encode, rowOf]; rfl)
theorem OpcodeMap.ldF (x : RegIx) : OpcodeMap.Statement (.ldF x) := by
  exact (mask_op_kk _).trans (by simp [encode, rowOf]; rfl)
theorem OpcodeMap.ldB (x : RegIx) : OpcodeMap.Statement (.ldB x) := by
  exact (mask_op_kk _).trans (by simp [encode, rowOf]; rfl)
theorem OpcodeMap.ldMemX (x : RegIx) : OpcodeMap.Statement (.ldMemX x) := by
  exact (mask_op_kk _).trans (by simp [encode, rowOf]; rfl)
theorem OpcodeMap.ldXMem (x : RegIx) : OpcodeMap.Statement (.ldXMem x) := by
  exact (mask_op_kk _).trans (by simp [encode, rowOf]; rfl)

end Sys2Proof.Laws
end

