-- ==== Sys2Proof/Laws/Step.lean ====
section
/-! SUPPORT. What a cycle and a step can do, said once (spec/10_state.md R40, spec/60_exceptions.md R216). -/

namespace Sys2Proof.Machine

/-- A fetch-decode-execute that answers a next state has faulted on the fetch, rejected the word, or executed
the instruction the word decodes to. -/
theorem fetchExecute_eq_next {s t : State} (h : fetchExecute s = .next t) :
    (∃ a, s.fetch = .error a ∧ t = s.raise .outOfBoundsAccess (some s.pc) none (some a) .fetch) ∨
    (∃ w, s.fetch = .ok w ∧ decode s.cfg.strictDecode w = .unsupported ∧
      t = s.raise .unsupportedOpcode (some s.pc) (some w) none .decode) ∨
    (∃ w i, s.fetch = .ok w ∧ decode s.cfg.strictDecode w = .instr i ∧ exec i s = .next t) := by
  unfold fetchExecute at h
  split at h
  · rename_i a ha
    simp only [Host.Outcome.next.injEq] at h
    exact .inl ⟨a, ha, h.symm⟩
  · rename_i w hw
    split at h
    · rename_i i hi
      exact .inr (.inr ⟨w, i, hw, hi, h⟩)
    · rename_i hu
      simp only [Host.Outcome.next.injEq] at h
      exact .inr (.inl ⟨w, hw, hu, h.symm⟩)
    · rename_i ht
      exact absurd ht (decode_ne_truncated _ _)

/-- A cycle that answers a next state started from a block that is not FAULTED; halted, it only starts. -/
theorem cycle_eq_next {s t : State} (h : cycle s = .next t) :
    s.fault = none ∧ ((s.halted = true ∧ t = s.start) ∨ (s.halted = false ∧ fetchExecute s.start = .next t)) := by
  unfold cycle at h
  split at h
  · simp at h
  · rename_i hf
    refine ⟨hf, ?_⟩
    split at h
    · rename_i hh
      simp only [Host.Outcome.next.injEq] at h
      exact .inl ⟨hh, h.symm⟩
    · rename_i hh
      exact .inr ⟨by simpa using hh, h⟩

/-- An operation guarded by FAULTED makes its move exactly when there is no fault. -/
theorem unlessFaulted_eq_next {f : State → State} {s t : State} :
    unlessFaulted f s = .next t ↔ s.fault = none ∧ t = f s := by
  unfold unlessFaulted
  split <;> simp_all [eq_comm]

/-- A step that answers a next state is a cycle, a move of the timers, the keypad or the loader, or a read. -/
theorem step_eq_next {s t : State} (h : step s = .next t) :
    (s.schedule = [] ∧ cycle s = .next t) ∨
    ∃ op rest, s.schedule = op :: rest ∧
      ((op = .cycle ∧ cycle (s.setSchedule rest) = .next t) ∨
       (s.fault = none ∧ op = .tickTimers ∧ t = (s.setSchedule rest).tickTimers) ∨
       (s.fault = none ∧ ∃ k, op = .press k ∧ t = (s.setSchedule rest).press k) ∨
       (s.fault = none ∧ ∃ k, op = .release k ∧ t = (s.setSchedule rest).release k) ∨
       (s.fault = none ∧ ∃ data offset, op = .loadBinary data offset ∧ t = (s.setSchedule rest).loadBinary data offset) ∨
       ((op = .readStatus ∨ op = .readFramebuffer) ∧ t = s.setSchedule rest)) := by
  unfold step hostStep at h
  split at h
  · rename_i hs
    exact .inl ⟨hs, h⟩
  · rename_i op rest hs
    refine .inr ⟨op, rest, hs, ?_⟩
    unfold perform at h
    split at h
    · exact .inl ⟨rfl, h⟩
    · rw [unlessFaulted_eq_next, State.setSchedule_fault] at h
      exact .inr (.inl ⟨h.1, rfl, h.2⟩)
    · rw [unlessFaulted_eq_next, State.setSchedule_fault] at h
      exact .inr (.inr (.inl ⟨h.1, _, rfl, h.2⟩))
    · rw [unlessFaulted_eq_next, State.setSchedule_fault] at h
      exact .inr (.inr (.inr (.inl ⟨h.1, _, rfl, h.2⟩)))
    · rw [unlessFaulted_eq_next, State.setSchedule_fault] at h
      exact .inr (.inr (.inr (.inr (.inl ⟨h.1, _, _, rfl, h.2⟩))))
    · simp only [Host.Outcome.next.injEq] at h
      exact .inr (.inr (.inr (.inr (.inr ⟨.inl rfl, h.symm⟩))))
    · simp only [Host.Outcome.next.injEq] at h
      exact .inr (.inr (.inr (.inr (.inr ⟨.inr rfl, h.symm⟩))))

end Sys2Proof.Machine
end

