-- ==== Sys2Proof/Laws/Run.lean ====
section
/-! SUPPORT. What one step of a run under a host does to the timers and to `started` (spec/60_exceptions.md R216). -/

namespace Sys2Proof.Machine

/-- A step under a host is the operation it calls, on the state with nothing else scheduled. -/
theorem stepUnder_eq (op : HostOp) (s : State) : stepUnder op s = perform op (s.setSchedule []) := rfl

/-- A tick takes one from each timer that is not 0. -/
theorem stepUnder_tick {s t : State} (h : stepUnder .tickTimers s = .next t) :
    t.dt.toNat = s.dt.toNat - 1 ∧ t.st.toNat = s.st.toNat - 1 := by
  rw [stepUnder_eq, perform, unlessFaulted_eq_next] at h
  rw [h.2]
  exact ⟨toNat_countDown s.dt, toNat_countDown s.st⟩

/-- An operation that is neither a tick nor a cycle keeps both timers and `started`. -/
theorem stepUnder_other {op : HostOp} {s t : State} (h : stepUnder op s = .next t) (ht : op ≠ .tickTimers) (hc : op ≠ .cycle) :
    t.dt = s.dt ∧ t.st = s.st ∧ t.started = s.started := by
  rw [stepUnder_eq] at h
  cases op with
  | cycle => exact absurd rfl hc
  | tickTimers => exact absurd rfl ht
  | press k =>
    rw [perform, unlessFaulted_eq_next] at h
    rw [h.2]
    unfold State.press State.completeWait
    split
    · exact ⟨rfl, rfl, rfl⟩
    · split <;> exact ⟨rfl, rfl, rfl⟩
  | release k =>
    rw [perform, unlessFaulted_eq_next] at h
    rw [h.2]
    unfold State.release
    split <;> exact ⟨rfl, rfl, rfl⟩
  | loadBinary data offset =>
    rw [perform, unlessFaulted_eq_next] at h
    rw [h.2]
    unfold State.loadBinary
    split
    · exact ⟨rfl, rfl, rfl⟩
    · split <;> exact ⟨rfl, rfl, rfl⟩
  | readStatus =>
    simp only [perform, Host.Outcome.next.injEq] at h
    rw [← h]
    exact ⟨rfl, rfl, rfl⟩
  | readFramebuffer =>
    simp only [perform, Host.Outcome.next.injEq] at h
    rw [← h]
    exact ⟨rfl, rfl, rfl⟩

end Sys2Proof.Machine
end

