-- ==== Sys2Proof/Tests/Slice0.lean ====
section
/-! SUPPORT. Tests of one step each, with expected results from spec/95_test_vectors.md and the examples in the rules,
and for every obligation with hypotheses a witness that meets them. -/

namespace Sys2Proof.Tests

open Sys2Proof Sys2Proof.Machine

/-! ## Helpers -/

/-- Whether the outcome is a next state with a property. -/
def after (r : Result) (p : State → Bool) : Bool :=
  match r with
  | .next t => p t
  | .fault _ => false
  | .refused _ => false

/-- One step on a word placed where the step fetches. -/
def run (s : State) (w : Nat) : Result := step (s.withFetchWord 16 w)

/-- Reset with some registers set. -/
def regs (l : List (RegIx × Byte)) : State := l.foldl (fun s p => s.setReg p.1 p.2) State.reset

/-- A state with I and some memory set. -/
def atI (s : State) (i : Word) (bytes : List Byte) : State := (s.setIndex i).store i.toNat bytes

/-- Glyph 0 of the default font. -/
def glyph0 : List Byte := [0xF0, 0x90, 0x90, 0x90, 0xF0]

/-- The configuration with one of its parameters changed. -/
def nopConfig : Config := { Config.default with sysPolicy := .nop }
def vyConfig : Config := { Config.default with shiftSource := .vy }
def vfResetConfig : Config := { Config.default with logicVfReset := true }
def incrementConfig : Config := { Config.default with loadstoreIncrementsI := true }
def lenientConfig : Config := { Config.default with strictDecode := false }
def chosenConfig : Config := { Config.default with keywaitPick := .chosen }

/-- The record of a fault at 0x200. -/
def recordAt200 (k : FaultKind) (w : Word) (a : Option Nat) (d : FaultDetail) : Option FaultRecord :=
  some { kind := k, pc := some 0x200, opcode := some w, address := a, detail := d }

/-- A block that waits for a key in V2. -/
def waiting : State := { State.reset with started := true, waitReg := some 2, dt := 3 }

/-- A block that has faulted. -/
def faulted : State := State.reset.raise .unsupportedOpcode (some 0x200) (some 0x0123) none .decode

/-- A block in a subroutine. -/
def running : State :=
  { State.reset with started := true, pc := 0x300, sp := 1, stack := State.reset.stack.set 0 0x206 }

/-! ## Well-formedness: every ill-formed term is refused -/

theorem test_wellformed_refuses : WellFormed (.sys 0x0E0) = false ∧ WellFormed (.sys 0x0EE) = false := by decide

theorem test_wellformed_accepts :
    WellFormed (.sys 0x0E1) = true ∧ WellFormed (.sys 0x000) = true ∧ WellFormed .cls = true ∧ WellFormed .ret = true := by decide

/-! ## Decoding: words written out from the patterns of R76 and the formats of R72 -/

theorem test_decode_control :
    decode true 0x0123 = .instr (.sys 0x123) ∧ decode true 0x00EE = .instr .ret ∧ decode true 0x1ABC = .instr (.jp 0xABC) ∧
    decode true 0x2345 = .instr (.call 0x345) ∧ decode true 0x3542 = .instr (.seImm 0x5 0x42) ∧
    decode true 0x4A43 = .instr (.sneImm 0xA 0x43) ∧ decode true 0x5560 = .instr (.seReg 0x5 0x6) ∧
    decode true 0x9AB0 = .instr (.sneReg 0xA 0xB) ∧ decode true 0xB300 = .instr (.jpV0 0x300) := by decide

theorem test_decode_alu :
    decode true 0x6AFF = .instr (.ldImm 0xA 0xFF) ∧ decode true 0x7203 = .instr (.addImm 0x2 0x03) ∧
    decode true 0x8120 = .instr (.ldReg 0x1 0x2) ∧ decode true 0x8121 = .instr (.orReg 0x1 0x2) ∧
    decode true 0x8122 = .instr (.andReg 0x1 0x2) ∧ decode true 0x8123 = .instr (.xorReg 0x1 0x2) ∧
    decode true 0x8124 = .instr (.addReg 0x1 0x2) ∧ decode true 0x8125 = .instr (.subReg 0x1 0x2) ∧
    decode true 0x8126 = .instr (.shr 0x1 0x2) ∧ decode true 0x8127 = .instr (.subn 0x1 0x2) ∧
    decode true 0x812E = .instr (.shl 0x1 0x2) ∧ decode true 0xC30F = .instr (.rnd 0x3 0x0F) := by decide

theorem test_decode_display : decode true 0x00E0 = .instr .cls ∧ decode true 0xD125 = .instr (.drw 0x1 0x2 0x5) := by decide

theorem test_decode_keypad_timers :
    decode true 0xE19E = .instr (.skp 0x1) ∧ decode true 0xE1A1 = .instr (.sknp 0x1) ∧ decode true 0xF307 = .instr (.ldXDt 0x3) ∧
    decode true 0xF50A = .instr (.ldXK 0x5) ∧ decode true 0xF315 = .instr (.ldDtX 0x3) ∧
    decode true 0xF418 = .instr (.ldStX 0x4) := by decide

theorem test_decode_index_memory :
    decode true 0xA300 = .instr (.ldI 0x300) ∧ decode true 0xF21E = .instr (.addI 0x2) ∧ decode true 0xF729 = .instr (.ldF 0x7) ∧
    decode true 0xF333 = .instr (.ldB 0x3) ∧ decode true 0xF155 = .instr (.ldMemX 0x1) ∧
    decode true 0xF265 = .instr (.ldXMem 0x2) := by decide

/-- CF14, CF17, AL32, AL33, KT18, KT19; 00E1 and 0000 are SYS (R77). -/
theorem test_decode_unsupported :
    decode true 0x5561 = .unsupported ∧ decode true 0x9561 = .unsupported ∧ decode true 0x8008 = .unsupported ∧
    decode true 0x800F = .unsupported ∧ decode true 0xE09F = .unsupported ∧ decode true 0xF000 = .unsupported ∧
    decode true 0x00E1 = .instr (.sys 0x0E1) ∧ decode true 0x0000 = .instr (.sys 0x000) ∧
    decode false 0x5561 = .instr (.seReg 0x5 0x6) ∧ decodeBytes true [0x12] = .truncated := by decide

/-- R57: the byte at the lower address is the high one. -/
theorem test_bytes_big_endian :
    decodeBytes true [0x83, 0x44, 0xFF] = .instr (.addReg 0x3 0x4) ∧ encodeBytes (.ldImm 0x0 0x05) = [0x60, 0x05] := by decide

theorem test_table_words :
    decodeTableWord 16 0xD005 = some (.drw 0x0 0x0 0x5) ∧ decodeTableWord 16 0x00E0 = some .cls ∧
    decodeTableWord 16 0x8008 = none := by decide

/-! ## Control flow -/

/-- CF1 -/
theorem test_sys_fault :
    after (run State.reset 0x0123) (fun t => t.fault == recordAt200 .unsupportedOpcode 0x0123 none .decode && t.pc == 0x200) = true := by
  decide

/-- CF2 -/
theorem test_sys_nop :
    after (run { State.reset with cfg := nopConfig } 0x0123) (fun t => t.pc == 0x202 && t.fault == none) = true := by decide

/-- CF7 -/
theorem test_ret :
    after (run { running with pc := 0x300, stack := running.stack.set 0 0x202 } 0x00EE)
      (fun t => t.pc == 0x202 && t.sp == 0 && t.stackAt 0 == 0x202) = true := by decide

/-- W6 -/
theorem test_ret_empty :
    after (run State.reset 0x00EE)
      (fun t => t.fault == recordAt200 .outOfBoundsAccess 0x00EE none .stackUnderflow && t.pc == 0x200) = true := by decide

/-- CF4, CF5 -/
theorem test_jp : after (run State.reset 0x1ABC) (fun t => t.pc == 0xABC) = true := by decide
theorem test_jp_then_fetch :
    after (run State.reset 0x1FFF) (fun t => after (step t) (fun u =>
      u.fault == some { kind := .outOfBoundsAccess, pc := some 0xFFF, opcode := none, address := some 0x1000, detail := .fetch }))
      = true := by decide

/-- CF6 -/
theorem test_call : after (run State.reset 0x2300) (fun t => t.pc == 0x300 && t.sp == 1 && t.stackAt 0 == 0x202) = true := by
  decide

/-- W6, the 17th CALL -/
theorem test_call_full :
    after (run (State.reset.setSp 16) 0x2200)
      (fun t => t.fault == recordAt200 .outOfBoundsAccess 0x2200 none .stackOverflow && t.sp == 16) = true := by decide

/-- CF8, CF9 -/
theorem test_se_imm :
    after (run (regs [(5, 0x42)]) 0x3542) (fun t => t.pc == 0x204) = true ∧
    after (run (regs [(5, 0x42)]) 0x3543) (fun t => t.pc == 0x202) = true := by decide

/-- CF10, CF11 -/
theorem test_sne_imm :
    after (run (regs [(5, 0x42)]) 0x4543) (fun t => t.pc == 0x204) = true ∧
    after (run (regs [(5, 0x42)]) 0x4542) (fun t => t.pc == 0x202) = true := by decide

/-- CF12, CF13 -/
theorem test_se_reg :
    after (run (regs [(5, 0x42), (6, 0x42)]) 0x5560) (fun t => t.pc == 0x204) = true ∧
    after (run (regs [(5, 0x42)]) 0x5560) (fun t => t.pc == 0x202) = true := by decide

/-- CF15, CF16 -/
theorem test_sne_reg :
    after (run (regs [(5, 0x42)]) 0x9560) (fun t => t.pc == 0x204) = true ∧
    after (run (regs [(5, 0x42), (6, 0x42)]) 0x9560) (fun t => t.pc == 0x202) = true := by decide

/-- CF19 -/
theorem test_jp_v0 :
    after (run (regs [(0, 0xFF)]) 0xBFFF) (fun t => t.pc == 0x10FE && t.fetch.toOption == none) = true := by decide

/-! ## Loads and ALU -/

/-- AL2 -/
theorem test_ld_imm : after (run State.reset 0x6F07) (fun t => t.reg 0xF == 0x07 && t.pc == 0x202) = true := by decide

/-- AL3 -/
theorem test_add_imm :
    after (run (regs [(2, 0xFE), (0xF, 0x55)]) 0x7203) (fun t => t.reg 2 == 0x01 && t.reg 0xF == 0x55) = true := by decide

/-- AL5 -/
theorem test_ld_reg : after (run (regs [(1, 0x3C)]) 0x8010) (fun t => t.reg 0 == 0x3C && t.reg 1 == 0x3C) = true := by
  decide

/-- AL6, AL7 -/
theorem test_or :
    after (run (regs [(0, 0x0F), (1, 0xF0), (0xF, 0x09)]) 0x8011) (fun t => t.reg 0 == 0xFF && t.reg 0xF == 0x09) = true := by
  decide
theorem test_or_vf_reset :
    after (run { regs [(0, 0x0F), (1, 0xF0), (0xF, 0x09)] with cfg := vfResetConfig } 0x8011)
      (fun t => t.reg 0 == 0xFF && t.reg 0xF == 0x00) = true := by decide

/-- AL8 -/
theorem test_and : after (run (regs [(0, 0x3C), (1, 0x0F)]) 0x8012) (fun t => t.reg 0 == 0x0C) = true := by decide

/-- AL9, AL10 -/
theorem test_xor :
    after (run (regs [(0, 0xFF), (1, 0x0F)]) 0x8013) (fun t => t.reg 0 == 0xF0) = true ∧
    after (run (regs [(0, 0x5A)]) 0x8003) (fun t => t.reg 0 == 0x00) = true := by decide

/-- AL14, AL15 -/
theorem test_add_reg_to_vf : after (run (regs [(0xF, 0xFF), (1, 0x01)]) 0x8F14) (fun t => t.reg 0xF == 1) = true := by
  decide
theorem test_add_reg_of_vf :
    after (run (regs [(0, 0x10), (0xF, 0x01)]) 0x80F4) (fun t => t.reg 0 == 0x11 && t.reg 0xF == 0) = true := by decide

/-- AL16, AL17 -/
theorem test_sub :
    after (run (regs [(0, 0x05), (1, 0x05)]) 0x8015) (fun t => t.reg 0 == 0x00 && t.reg 0xF == 1) = true ∧
    after (run (regs [(1, 0x01)]) 0x8015) (fun t => t.reg 0 == 0xFF && t.reg 0xF == 0) = true := by decide

/-- AL19, AL20 -/
theorem test_subn :
    after (run (regs [(0, 0x02), (1, 0x01)]) 0x8017) (fun t => t.reg 0 == 0xFF && t.reg 0xF == 0) = true ∧
    after (run (regs [(0, 0x01), (1, 0x02)]) 0x8017) (fun t => t.reg 0 == 0x01 && t.reg 0xF == 1) = true := by decide

/-- AL24, AL25 -/
theorem test_shr :
    after (run (regs [(2, 0x02), (3, 0x81)]) 0x8236) (fun t => t.reg 2 == 0x01 && t.reg 0xF == 0) = true := by decide
theorem test_shr_vy :
    after (run { regs [(2, 0x02), (3, 0x81)] with cfg := vyConfig } 0x8236) (fun t => t.reg 2 == 0x40 && t.reg 0xF == 1) = true := by
  decide

/-- AL26, AL27 -/
theorem test_shl :
    after (run (regs [(2, 0x40)]) 0x822E) (fun t => t.reg 2 == 0x80 && t.reg 0xF == 0) = true ∧
    after (run (regs [(2, 0x80)]) 0x822E) (fun t => t.reg 2 == 0x00 && t.reg 0xF == 1) = true := by decide

/-- AL30: whatever the draw. -/
theorem test_rnd_mask_zero : ∃ t, exec (.rnd 0x3 0x00) State.reset = .next t ∧ t.reg 0x3 = 0x00#8 ∧ t.draws = 1 := by
  refine ⟨_, rfl, ?_, rfl⟩
  simp [State.reg, State.setReg]

/-! ## Display -/

/-- DS1 -/
theorem test_cls :
    after (run { (regs [(0xF, 0x33)]) with fb := Framebuffer.clear.setPixel 5 6 true } 0x00E0)
      (fun t => !t.pixel 5 6 && t.reg 0xF == 0x33) = true := by decide

/-- DS2: each pixel wraps on its own. -/
theorem test_drw_wraps :
    after (run (atI (regs [(0, 62), (1, 31)]) 0x300 [0xF0, 0xF0]) 0xD012)
      (fun t => t.pixel 62 31 && t.pixel 63 31 && t.pixel 0 31 && t.pixel 1 31 && t.pixel 62 0 && t.pixel 63 0 && t.pixel 0 0 &&
        t.pixel 1 0 && !t.pixel 2 31 && !t.pixel 0 1 && t.reg 0xF == 0) = true := by decide

/-- DS4: a collision, at a column reduced modulo 64. -/
theorem test_drw_collides :
    after (run { atI (regs [(0, 70)]) 0x300 [0x80] with fb := Framebuffer.clear.setPixel 6 0 true } 0xD011)
      (fun t => !t.pixel 6 0 && t.reg 0xF == 1) = true := by decide

/-! ## Keypad and timers -/

/-- KT1, KT2 -/
theorem test_skp :
    after (run ((regs [(1, 5)]).setKey 5 true) 0xE19E) (fun t => t.pc == 0x204 && t.keyDown 5) = true ∧
    after (run (regs [(1, 5)]) 0xE19E) (fun t => t.pc == 0x202) = true := by decide

/-- KT5 -/
theorem test_skp_index :
    after (run (regs [(1, 0x10)]) 0xE19E)
      (fun t => t.fault == recordAt200 .outOfBoundsAccess 0xE19E (some 0x10) .keyIndex) = true := by decide

/-- KT3, KT4 -/
theorem test_sknp :
    after (run (regs [(1, 5)]) 0xE1A1) (fun t => t.pc == 0x204) = true ∧
    after (run ((regs [(1, 5)]).setKey 5 true) 0xE1A1) (fun t => t.pc == 0x202) = true := by decide

/-- KT6 -/
theorem test_sknp_index :
    after (run (regs [(1, 0xFF)]) 0xE1A1)
      (fun t => t.fault == recordAt200 .outOfBoundsAccess 0xE1A1 (some 0xFF) .keyIndex) = true := by decide

/-- KT7 -/
theorem test_ld_x_dt : after (run (State.reset.setDt 0x2A) 0xF307) (fun t => t.reg 3 == 0x2A) = true := by decide

/-- KT11 -/
theorem test_ld_x_k_pressed :
    after (run ((State.reset.setKey 9 true).setKey 3 true) 0xF20A) (fun t => t.reg 2 == 3 && !t.halted && t.pc == 0x202) = true := by
  decide

/-- KT12: the wait, then the press that completes it. -/
theorem test_ld_x_k_waits :
    after (run State.reset 0xFF0A)
      (fun t => t.waitReg == some 15 && t.pc == 0x202 && (t.press 1).reg 0xF == 1 && !(t.press 1).halted) = true := by decide

/-- KT8 -/
theorem test_ld_dt_x : after (run (regs [(3, 60)]) 0xF315) (fun t => t.dt == 60) = true := by decide

/-- KT9, KT10 -/
theorem test_ld_st_x :
    after (run (regs [(4, 5)]) 0xF418) (fun t => t.st == 5 && t.soundActive) = true ∧
    after (run (State.reset.setSt 9) 0xF418) (fun t => t.st == 0 && !t.soundActive) = true := by decide

/-! ## Index register and memory -/

/-- IX1 -/
theorem test_ld_i : after (run State.reset 0xA300) (fun t => t.index == 0x300) = true := by decide

/-- IX3, IX4 -/
theorem test_add_i :
    after (run ((regs [(2, 0x01)]).setIndex 0xFFF) 0xF21E) (fun t => t.index == 0x1000 && t.reg 0xF == 0) = true ∧
    after (run ((regs [(2, 0x02)]).setIndex 0xFFFF) 0xF21E) (fun t => t.index == 0x0001) = true := by decide

/-- IX5, IX7 -/
theorem test_ld_f :
    after (run (regs [(7, 0x0A)]) 0xF729) (fun t => t.index == 0x032) = true ∧
    after (run (regs [(7, 0xFF)]) 0xF729) (fun t => t.index == 0x4FB) = true := by decide

/-- IX8 -/
theorem test_ld_b :
    after (run ((regs [(3, 156)]).setIndex 0x300) 0xF333)
      (fun t => t.memRead 0x300 == some 1 && t.memRead 0x301 == some 5 && t.memRead 0x302 == some 6 && t.index == 0x300) = true := by
  decide

/-- IX11 -/
theorem test_ld_b_out_of_bounds :
    after (run ((regs [(3, 7)]).setIndex 0xFFE) 0xF333)
      (fun t => t.fault == recordAt200 .outOfBoundsAccess 0xF333 (some 0x1000) .write && t.memRead 0xFFE == some 0) = true := by
  decide

/-- IX13 -/
theorem test_ld_mem_x :
    after (run { (regs [(0, 0x12), (1, 0x0A)]).setIndex 0x208 with cfg := incrementConfig } 0xF155)
      (fun t => t.memRead 0x208 == some 0x12 && t.memRead 0x209 == some 0x0A && t.memRead 0x20A == some 0 && t.index == 0x20A)
      = true := by decide

/-- IX15 -/
theorem test_ld_mem_x_out_of_bounds :
    after (run ((regs [(0, 1), (1, 2)]).setIndex 0xFFF) 0xF155)
      (fun t => t.fault == recordAt200 .outOfBoundsAccess 0xF155 (some 0x1000) .write && t.memRead 0xFFF == some 0) = true := by
  decide

/-- IX17 -/
theorem test_ld_x_mem :
    after (run (atI State.reset 0x300 [1, 5, 6, 7]) 0xF265)
      (fun t => t.reg 0 == 1 && t.reg 1 == 5 && t.reg 2 == 6 && t.reg 3 == 0 && t.index == 0x300) = true := by decide

/-- IX19 -/
theorem test_ld_x_mem_out_of_bounds :
    after (run (State.reset.setIndex 0x1000) 0xF065)
      (fun t => t.fault == recordAt200 .outOfBoundsAccess 0xF065 (some 0x1000) .read) = true := by decide

/-! ## The host operations -/

/-- KT13, KT15, KT16 -/
theorem test_waiting_block :
    (waiting.release 4).halted = true ∧ waiting.press 16 = waiting ∧ waiting.tickTimers.dt = 2 ∧ waiting.tickTimers.halted = true := by
  decide

/-- KT17 -/
theorem test_faulted_block :
    after (perform .tickTimers faulted) (fun _ => true) = false ∧ after (perform (.press 1) faulted) (fun _ => true) = false ∧
    after (step faulted) (fun _ => true) = false := by decide

/-- R242, R183: the boot holds glyph F last in the font, and the program at 0x200. -/
theorem test_boot :
    (State.boot Config.default ResetValues.zero [0x60, 0x05]).memRead 0x04F = some 0x80 ∧
    (State.boot Config.default ResetValues.zero [0x60, 0x05]).memRead 0x200 = some 0x60 := by decide +kernel

/-- R222: pixel (3, 1) stands at index 67. -/
theorem test_framebuffer_order :
    (State.reset.setFb (Framebuffer.clear.setPixel 3 1 true)).readFramebuffer[67]? = some true := by decide

theorem test_core_reset : Sys2Proof.core.reset = State.reset := rfl

/-! ## Witnesses: control flow -/

theorem witness_sys :
    (0x123#12 ≠ 0x0E0#12 ∧ 0x123#12 ≠ 0x0EE#12) ∧ State.reset.cfg.sysPolicy = .fault ∧
    ({ State.reset with cfg := nopConfig } : State).cfg.sysPolicy = .nop := by decide

theorem witness_ret :
    (1 ≤ (State.reset.setSp 1).sp.toNat ∧ (State.reset.setSp 1).sp.toNat ≤ 16) ∧
    (1 ≤ (State.reset.setSp 16).sp.toNat ∧ (State.reset.setSp 16).sp.toNat ≤ 16) ∧ State.reset.sp.toNat = 0 := by decide

theorem witness_jp : 0xFFF#12 = 0xFFF#12 ∧ (0xFFF#12).toNat + 1 = 0x1000 := by decide

theorem witness_call :
    State.reset.sp.toNat < 16 ∧ (State.reset.setSp 15).sp.toNat < 16 ∧ (1#4).toNat ≠ State.reset.sp.toNat ∧
    (State.reset.setSp 16).sp.toNat = 16 := by decide

theorem witness_register_skips : 1#4 ≠ 0x0#4 ∧ 15#4 ≠ 0x0#4 := by decide

theorem witness_jp_v0 :
    0xFFF ≤ (State.reset.reg 0x0#4).toNat + (0xFFF#12).toNat ∧ 0xFFF ≤ ((regs [(0, 0xFF)]).reg 0x0#4).toNat + (0xF00#12).toNat := by
  decide

/-! ## Witnesses: ALU -/

theorem witness_logic :
    State.reset.cfg.logicVfReset = false ∧ ({ State.reset with cfg := vfResetConfig } : State).cfg.logicVfReset = true := by decide

theorem witness_shifts :
    (2#4 = if State.reset.cfg.shiftSource = .vx then 2#4 else 3#4) ∧
    (3#4 = if ({ State.reset with cfg := vyConfig } : State).cfg.shiftSource = .vx then 2#4 else 3#4) := by decide

theorem witness_rnd : (0x0F#8).getLsbD 4 = false ∧ (0xFF#8).getLsbD 8 = false := by decide

/-! ## Witnesses: display -/

theorem witness_drw_runs :
    ((0#4).toNat = 0) ∧ (State.reset.setIndex 0xFFF).index.toNat + (1#4).toNat ≤ 4096 ∧
    (State.reset.setIndex 0xFF1).index.toNat + (15#4).toNat ≤ 4096 := by decide

theorem witness_drw_faults :
    ((2#4).toNat ≠ 0 ∧ 4096 < (State.reset.setIndex 0xFFF).index.toNat + (2#4).toNat) ∧
    ((1#4).toNat ≠ 0 ∧ 4096 < (State.reset.setIndex 0x1000).index.toNat + (1#4).toNat) := by decide

/-- Row 0, column 7 is under the sprite, and pixel (0, 31) is not. -/
theorem witness_drw_pixels :
    (0 < (1#4).toNat ∧ 7 < 8) ∧
    ∀ r c : Fin 8, r.val < (1#4).toNat → ¬ ((0 : Fin 64) = wrapX (0 + c.val) ∧ (31 : Fin 32) = wrapY (0 + r.val)) := by decide

/-- DS4: the sprite's first bit meets a pixel that is on. -/
theorem witness_drw_collision :
    let s : State := { atI (regs [(0, 70)]) 0x300 [0x80] with fb := Framebuffer.clear.setPixel 6 0 true }
    0 < (1#4).toNat ∧ 0 < 8 ∧ (s.mem.read (s.index.toNat + 0)).getLsbD (7 - 0) = true ∧
      s.pixel (wrapX ((s.reg 0).toNat + 0)) (wrapY ((s.reg 1).toNat + 0)) = true := by decide

/-- DS6: with N = 0 there is no such bit. -/
theorem witness_drw_no_collision :
    ¬ ∃ r c : Nat, r < (0#4).toNat ∧ c < 8 ∧ (State.reset.mem.read (State.reset.index.toNat + r)).getLsbD (7 - c) = true ∧
      State.reset.pixel (wrapX ((State.reset.reg 0).toNat + c)) (wrapY ((State.reset.reg 1).toNat + r)) = true := by
  rintro ⟨r, c, hr, -⟩
  exact absurd hr (Nat.not_lt_zero r)

/-- W2: V0 and V1 are kept by the first of two draws. -/
theorem witness_drawing_twice :
    after (exec (.drw 0 1 5) (atI (regs [(0, 10), (1, 10)]) 0x300 glyph0)) (fun t => t.reg 0 == 10 && t.reg 1 == 10 &&
      after (exec (.drw 0 1 5) t) (fun u => u.reg 0xF == 1 && !u.pixel 10 10)) = true := by decide

/-! ## Witnesses: keypad and timers -/

theorem witness_key_skips :
    ((regs [(1, 15)]).reg 1).toNat ≤ 0xF ∧ 0xF < ((regs [(1, 16)]).reg 1).toNat ∧ 0xF < ((regs [(1, 255)]).reg 1).toNat := by decide

theorem witness_key_wait_none : ∀ k : Nibble, State.reset.keyDown k = false := by
  intro k
  simp [State.keyDown, State.reset, State.construct, ResetValues.choose, ResetValues.zero, Config.default]

theorem witness_key_wait_some :
    (∃ k : Nibble, (State.reset.setKey 15 true).keyDown k = true) ∧ State.reset.cfg.keywaitPick = .lowest := ⟨⟨15, by decide⟩, rfl⟩

/-- With every key pressed, whatever key the free choice names is pressed. -/
theorem witness_key_wait_chosen :
    ∃ s : State, s.cfg.keywaitPick = .chosen ∧ s.keyDown (Config.keywaitChoice s.key) = true :=
  ⟨{ State.reset with cfg := chosenConfig, key := Vector.replicate 16 true }, rfl, by simp [State.keyDown]⟩

/-! ## Witnesses: index register and memory -/

theorem witness_bcd :
    (State.reset.setIndex 4093).index.toNat + 2 < 4096 ∧ 4096 ≤ (State.reset.setIndex 4094).index.toNat + 2 := by decide

theorem witness_dump_and_load :
    (State.reset.setIndex 4080).index.toNat + (15#4).toNat < 4096 ∧ 4096 ≤ (State.reset.setIndex 4081).index.toNat + (15#4).toNat ∧
    State.reset.index.toNat + (0#4).toNat < 4096 ∧ (3#4).toNat ≤ (15#4).toNat ∧ (0#4).toNat < (3#4).toNat := by decide

/-! ## Witnesses: reset, the cycle, decoding -/

theorem witness_reset :
    Config.default.resetRegs = .zero ∧ ({ Config.default with resetRegs := .arbitrary } : Config).resetRegs = .arbitrary ∧
    State.reset = State.construct Config.default ResetValues.zero := ⟨rfl, rfl, rfl⟩

theorem witness_step_runs :
    (let s := State.reset.store 0x200 [0x60, 0x05]
     s.fault = none ∧ s.halted = false ∧ s.memRead s.pc.toNat = some 0x60 ∧ s.memRead (s.pc.toNat + 1) = some 0x05 ∧
       decodeBytes s.cfg.strictDecode [0x60, 0x05] = .instr (.ldImm 0 5) ∧ s.schedule = [] ∧
       (s.setSchedule [.cycle, .tickTimers]).schedule = .cycle :: [.tickTimers]) := by decide

theorem witness_cycle :
    faulted.fault ≠ none ∧ (waiting.fault = none ∧ waiting.halted = true) ∧ (State.reset.fault = none ∧ State.reset.halted = false) ∧
    4096 ≤ (State.reset.setPc 0xFFF).pc.toNat + 1 ∧ (State.reset.setPc 0xFFE).pc.toNat + 1 < 4096 := by decide

theorem witness_fetch :
    (State.reset.setPc 0xFFE).pc.toNat + 1 < 4096 ∧ (State.reset.setPc 0xFFF).pc.toNat = 0xFFF ∧
    0x1000 ≤ (State.reset.setPc 0x1000).pc.toNat := by decide

theorem witness_opcode_map :
    (0x5560#16 &&& 0xF000#16 = 0x5000#16) ∧ (0x9561#16 &&& 0xF000#16 = 0x9000#16) ∧
    (0x8344#16 &&& 0xF000#16 ≠ 0x5000#16 ∧ 0x8344#16 &&& 0xF000#16 ≠ 0x9000#16) := by decide

theorem witness_unsupported :
    (let s := State.reset.store 0x200 [0x80, 0x08]
     s.fault = none ∧ s.halted = false ∧ s.fetch.toOption = some 0x8008 ∧ decode s.cfg.strictDecode 0x8008 = .unsupported) ∧
    (State.reset.fetch.toOption = some 0x0000 ∧ State.reset.cfg.sysPolicy = .fault ∧ opOf 0x0000 = 0x0#4) := by decide

theorem witness_decode_of_encode : WellFormed (.drw 0xF 0xF 0xF) = true ∧ WellFormed (.sys 0xFFF) = true := by decide

theorem witness_encode_of_decode : decode true 0x8344 = .instr (.addReg 0x3 0x4) := by decide

/-! ## Witnesses: the whole machine -/

/-- The invariants hold of a block in a subroutine, whose step is a next state. -/
theorem witness_inv_running : Inv running ∧ after (step (running.store 0x300 [0x00, 0xEE])) (fun t => t.pc == 0x206) = true := by
  refine ⟨⟨rfl, by decide, by decide, ?_, fun _ => rfl, fun h => absurd h (by decide), ?_, ?_, ?_⟩, by decide⟩
  · intro j h
    have hj : j.toNat < 1 := h
    have h0 : j = 0#4 := BitVec.eq_of_toNat_eq (by simp; omega)
    rw [h0]; decide
  all_goals intro r; intros; rename_i h; try (exact absurd h (by simp [running, State.reset, State.construct]))
  all_goals simp_all [running, State.reset, State.construct]

theorem witness_inv_waiting : Inv waiting := by
  refine ⟨rfl, by decide, by decide, fun j h => absurd h (Nat.not_lt_zero _), fun _ => rfl, fun h => absurd h (by decide), ?_, ?_, ?_⟩
  all_goals intros; simp_all [waiting, State.reset, State.construct]

theorem witness_inv_faulted : Inv faulted := by
  refine ⟨rfl, by decide, by decide, fun j h => absurd h (Nat.not_lt_zero _), fun h => absurd h (by decide), fun _ => rfl, ?_, ?_, ?_⟩
  · intro r h
    simp only [faulted, State.raise, Option.some.injEq] at h
    subst h
    exact ⟨rfl, rfl, rfl, rfl⟩
  · intro r p h hp
    simp only [faulted, State.raise, Option.some.injEq] at h
    subst h
    simpa [faulted, State.raise, State.reset, State.construct, eq_comm] using hp
  · intro r h hk
    simp only [faulted, State.raise, Option.some.injEq] at h
    subst h
    cases hk

/-- From reset with nothing placed, the first cycle fetches 0x0000 and faults (CF3); a read of a FAULTED block answers. -/
theorem witness_faults :
    State.reset.fault = none ∧ after (cycle State.reset) (fun t => t.fault != none) = true ∧
    after (step State.reset) (fun t => t.fault != none) = true ∧ faulted.fault ≠ none ∧
    after (step (faulted.setSchedule [.readStatus])) (fun t => t.fault == faulted.fault) = true := by decide

theorem witness_flags :
    (writesFlag State.reset.cfg (.ldImm 0 5) = false ∧ isDestination regF (.ldImm 0 5) = false ∧
      after (exec (.ldImm 0 5) State.reset) (fun _ => true) = true) ∧
    (1#4 ≠ regF ∧ isDestination 1#4 (.ldImm 0 5) = false) ∧
    (writesFlag State.reset.cfg (.addReg 0 1) = true ∧ after (exec (.addReg 0 1) State.reset) (fun t => t.fault == none) = true) ∧
    (writesFlag vfResetConfig (.orReg 0xF 1) = true ∧
      after (exec (.orReg 0xF 1) { State.reset with cfg := vfResetConfig }) (fun t => t.fault == none) = true) := by decide

/-- Writers and others both answer next states. -/
theorem witness_writers :
    after (exec (.call 0x300) State.reset) (fun t => t.sp == 1) = true ∧ after (exec .ret running) (fun t => t.sp == 0) = true ∧
    after (exec (.ldXK 2) State.reset) (fun t => t.halted) = true ∧
    after (exec (.ldXMem 1) { State.reset with cfg := incrementConfig }) (fun t => t.index == 2) = true := by decide

theorem witness_sound_timer :
    after (exec .cls State.reset) (fun _ => true) = true ∧ (∀ x : RegIx, Instr.cls ≠ .ldStX x) ∧
    after (exec (.ldStX 4) State.reset) (fun _ => true) = true :=
  ⟨by decide, fun x h => (by cases h), by decide⟩

theorem witness_started : running.started = true ∧ after (step (running.setSchedule [.tickTimers])) (fun t => t.started) = true ∧
    after (cycle running) (fun t => t.started) = true := by decide

theorem witness_wait :
    waiting.halted = true ∧ after (step waiting) (fun t => t.waitReg == some 2) = true ∧
    after (step (waiting.setSchedule [.press 15])) (fun t => t.waitReg == none && t.reg 2 == 15) = true := by decide

theorem witness_self_jump :
    (let s := (State.reset.store 0x208 [0x12, 0x08]).setPc 0x208
     s.fault = none ∧ s.halted = false ∧ s.fetch.toOption = some (encA 0x1 0x208) ∧ s.pc.toNat = (0x208#12).toNat) := by decide

theorem witness_store_fetch :
    (let s := State.reset.setIndex 0x202
     s.index = s.pc + 2 ∧ s.index.toNat + (1#4).toNat < 4096 ∧ 1 ≤ (1#4).toNat ∧ s.index.toNat + 2 < 4096 ∧
       after (exec (.ldMemX 1) s) (fun _ => true) = true ∧ after (exec (.ldB 1) s) (fun _ => true) = true) ∧
    (State.reset.started = false ∧ State.reset.fault = none ∧ State.reset.pc.toNat + 2 ≤ 4096 ∧
      (State.reset.setPc 0xFFE).pc.toNat + 2 ≤ 4096) := by decide

theorem witness_ignored_fields :
    State.reset.cfg.shiftSource = .vx ∧ after (exec (.sys 0x001) State.reset) (fun _ => true) = true ∧
    after (exec (.sys 0xFFF) State.reset) (fun _ => true) = true := by decide

/-! ## Witnesses: hosts (R254) -/

/-- A fair host: it ticks and cycles in turn. -/
def fairHost (n : Nat) : HostOp := if n % 2 = 0 then .tickTimers else .cycle

/-- The waiting block of three ticks, n operations of `fairHost` later. -/
def fairRun (n : Nat) : State := waiting.setDt (BitVec.ofNat 8 (3 - (n + 1) / 2))

theorem witness_fair_host : TicksForever fairHost ∧ CyclesForever fairHost :=
  ⟨fun n => ⟨2 * n, by omega, if_pos (by omega)⟩, fun n => ⟨2 * n + 1, by omega, if_neg (by omega)⟩⟩

theorem witness_fair_run : IsRun fairHost fairRun := by
  intro n
  by_cases h : n % 2 = 0
  · have h0 : ∀ j : Fin 4, countDown (BitVec.ofNat 8 j.val) = BitVec.ofNat 8 (j.val - 1) := by decide
    have h1 := h0 ⟨3 - (n + 1) / 2, by omega⟩
    have h2 : 3 - (n + 1) / 2 - 1 = 3 - (n + 1 + 1) / 2 := by omega
    simp only [h2] at h1
    rw [fairHost, if_pos h, fairRun, fairRun, ← h1]
    rfl
  · have h1 : (n + 1 + 1) / 2 = (n + 1) / 2 := by omega
    rw [fairHost, if_neg h, fairRun, fairRun, h1]
    rfl

/-- No cycle of that run changes a timer. -/
theorem witness_fair_run_timers :
    (∀ n : Nat, fairHost n = .cycle → (fairRun (n + 1)).dt = (fairRun n).dt) ∧
    (∀ n : Nat, fairHost n = .cycle → (fairRun (n + 1)).st = (fairRun n).st) := by
  refine ⟨fun n h => ?_, fun n _ => rfl⟩
  have hn : ¬ n % 2 = 0 := fun hn => by simp [fairHost, hn] at h
  have h1 : (n + 1 + 1) / 2 = (n + 1) / 2 := by omega
  rw [fairRun, fairRun, h1]

/-- Fairness is no machine rule: a host that never ticks has an unending run in which DT stays 3, and a host that
never cycles has one in which the block never starts. -/
theorem test_unfair_hosts :
    IsRun (fun _ => .cycle) (fun _ => waiting) ∧ waiting.dt = 3#8 ∧
    IsRun (fun _ => .tickTimers) (fun _ => State.reset) ∧ State.reset.started = false :=
  ⟨fun _ => rfl, rfl, fun _ => rfl, rfl⟩

/-! ## Witnesses: memory and the host operations -/

/-- W1 -/
theorem witness_memory :
    (State.reset.memWrite 0xFFF 0x5A).bind (fun t => t.memRead 0xFFF) = some 0x5A ∧ State.reset.memWrite 0x1000 0x5A = none ∧
    State.reset.memRead 0xFFFF = none := by decide

theorem witness_tick : waiting.fault = none ∧ faulted.fault ≠ none := by decide

theorem witness_press :
    (waiting.fault = none ∧ 15 ≤ 15) ∧ 15 < 16 ∧ faulted.fault ≠ none ∧
    after (perform (.press 15) waiting) (fun t => t.reg 2 == 15) = true ∧
    after (perform (.release 0) waiting) (fun t => t.halted) = true := by decide

theorem witness_load :
    (State.reset.started = false ∧ State.reset.fault = none ∧ 4094 + [0x12#8, 0x08#8].length ≤ 4096) ∧
    4096 < 4095 + [0x12#8, 0x08#8].length ∧ (waiting.started = true ∨ waiting.fault ≠ none) ∧
    (faulted.started = true ∨ faulted.fault ≠ none) := by decide

theorem witness_boot :
    Config.default.fontImage.length ≤ 4096 ∧ (List.replicate 3584 0x00#8).length ≤ 3584 ∧
    3584 < (List.replicate 3585 0x00#8).length := ⟨by decide, by rw [List.length_replicate], by rw [List.length_replicate]; omega⟩

end Sys2Proof.Tests
end

section
/-! SUPPORT. What an instruction can do to the whole state, said once: every next state of exec is one of the
effects below (spec/10_state.md R21, R25; the write rules of spec/40 to 44). -/

namespace Sys2Proof.Machine

/-- How a state may read after an instruction, up to the values written. The generic effects say which register
they name as destination and whether the instruction writes the flag; `hpc` bounds a new pc when the
instruction was fetched below 4096. -/
inductive Effect (s : State) : Instr → State → Prop
  /-- A fault record and nothing else (R203, R206). -/
  | faulted {i : Instr} (k : FaultKind) (a : Option Nat) (d : FaultDetail) : Effect s i (s.raiseAt i k a d)
  /-- SYS under `nop`, the jumps and the skips. -/
  | moved {i : Instr} (w : Word) (hpc : s.pc.toNat < memSize → w.toNat ≤ 0x10FE)
      (hflag : writesFlag s.cfg i = false) : Effect s i (s.setPc w)
  /-- RET (R101). -/
  | returned (h1 : 1 ≤ s.sp.toNat) (h16 : s.sp.toNat ≤ stackDepth) :
      Effect s .ret ((s.advance.setSp (s.sp - 1)).setPc (s.stackAt (BitVec.ofNat 4 (s.sp.toNat - 1))))
  /-- CALL (R103). -/
  | called (nnn : Addr) (h : s.sp.toNat < stackDepth) :
      Effect s (.call nnn) (((s.advance.setStack (s.stack.set s.sp.toNat (s.pc + 2) h)).setSp (s.sp + 1)).setPc (addrOf nnn))
  /-- 6XKK, 7XKK, 8XY0, FX07 and an FX0A that completes at once. -/
  | loaded {i : Instr} (x : RegIx) (b : Byte) (hdest : isDestination x i = true) (hflag : writesFlag s.cfg i = false) :
      Effect s i (s.advance.setReg x b)
  /-- CXKK (R132). -/
  | drawn (x : RegIx) (kk b : Byte) : Effect s (.rnd x kk) (s.advance.setReg x b).countDraw
  /-- OR, AND, XOR (R124 to R126). -/
  | combined {i : Instr} (x : RegIx) (r : Byte) (hdest : isDestination x i = true)
      (hflag : writesFlag s.cfg i = s.cfg.logicVfReset) : Effect s i (s.advance.setRegLogic x r)
  /-- The results with a flag (R127 to R131). -/
  | computed {i : Instr} (x : RegIx) (r : Byte) (f : Bool) (hdest : isDestination x i = true)
      (hflag : writesFlag s.cfg i = true) : Effect s i (s.advance.setRegFlag x r f)
  /-- CLS (R140). -/
  | cleared : Effect s .cls (s.advance.setFb Framebuffer.clear)
  /-- DRW (R142). -/
  | sprite (x y : RegIx) (n : Nibble) (fb : Framebuffer) (f : Bool) :
      Effect s (.drw x y n) ((s.advance.setFb fb).setReg regF (flagByte f))
  /-- An FX0A with no key pressed (R163). -/
  | waits (x : RegIx) : Effect s (.ldXK x) (s.advance.setWait (some x))
  /-- FX15 (R164). -/
  | delaySet (x : RegIx) (b : Byte) : Effect s (.ldDtX x) (s.advance.setDt b)
  /-- FX18 (R165). -/
  | soundSet (x : RegIx) (b : Byte) : Effect s (.ldStX x) (s.advance.setSt b)
  /-- ANNN, FX1E, FX29 (R180 to R182). -/
  | indexSet {i : Instr} (w : Word) (hi : (∃ nnn, i = .ldI nnn) ∨ (∃ x, i = .addI x) ∨ (∃ x, i = .ldF x)) :
      Effect s i (s.advance.setIndex w)
  /-- FX33 (R184). -/
  | digitsStored (x : RegIx) (a : Nat) (bytes : List Byte) (hfit : a + bytes.length ≤ memSize) :
      Effect s (.ldB x) (s.advance.store a bytes)
  /-- FX55 (R185). -/
  | registersStored (x : RegIx) (a : Nat) (bytes : List Byte) (hfit : a + bytes.length ≤ memSize) :
      Effect s (.ldMemX x) ((s.advance.store a bytes).bumpIndex x)
  /-- FX65 (R186). -/
  | registersLoaded (x : RegIx) (bytes : List Byte) (hlen : bytes.length = x.toNat + 1) :
      Effect s (.ldXMem x) ((s.advance.setRegsFrom 0 bytes).bumpIndex x)

/-! ## exec has one of the effects -/

/-- The advance of the fetch stays below the largest pc. -/
theorem toNat_pc_add_two_le {p : Word} (h : p.toNat < memSize) : (p + 2).toNat ≤ 0x10FE := by
  rw [BitVec.toNat_add]
  simp only [memSize] at h
  simp
  omega

/-- A skip leaves pc two or four on. -/
theorem effect_skip {i : Instr} {s : State} (c : Bool) (hflag : writesFlag s.cfg i = false) :
    Effect s i (s.advance.skipIf c) := by
  cases c
  · exact .moved (s.pc + 2) toNat_pc_add_two_le hflag
  · refine .moved (s.pc + 2 + 2) (fun h => ?_) hflag
    simp only [memSize] at h
    rw [BitVec.toNat_add, BitVec.toNat_add]
    simp
    omega

/-- JP V0 reaches at most 0xFFF + 0xFF (R25, R108). -/
theorem toNat_wide_add_addrOf_le (b : Byte) (nnn : Addr) : (wide b + addrOf nnn).toNat ≤ 0x10FE := by
  have hb := b.isLt
  have hn := nnn.isLt
  rw [BitVec.toNat_add, toNat_wide, toNat_addrOf]
  omega

theorem toNat_addrOf_le (nnn : Addr) : (addrOf nnn).toNat ≤ 0x10FE := by
  have hn := nnn.isLt
  rw [toNat_addrOf]
  omega

/-- Every next state of exec is one of the effects. -/
theorem exec_effect {i : Instr} {s t : State} (h : exec i s = .next t) : Effect s i t := by
  cases i
  case sys nnn =>
    simp only [exec, execSys] at h
    split at h <;> cases h
    · exact .faulted _ _ _
    · exact .moved _ toNat_pc_add_two_le rfl
  case cls => cases h; exact .cleared
  case ret =>
    simp only [exec, execRet] at h
    split at h <;> cases h
    · rename_i he
      obtain ⟨h1, h16, rfl, rfl⟩ := State.pop_eq_ok.mp he
      exact .returned h1 h16
    · exact .faulted _ _ _
  case jp nnn => cases h; exact .moved _ (fun _ => toNat_addrOf_le nnn) rfl
  case call nnn =>
    simp only [exec, execCall] at h
    split at h <;> cases h
    · rename_i he
      obtain ⟨hsp, rfl⟩ := State.push_eq_ok.mp he
      exact Effect.called (s := s) nnn hsp
    · exact .faulted _ _ _
  case seImm x kk | sneImm x kk | seReg x y | sneReg x y => cases h; exact effect_skip _ rfl
  case jpV0 nnn => cases h; exact .moved _ (fun _ => toNat_wide_add_addrOf_le _ nnn) rfl
  case ldImm x kk | addImm x kk | ldReg x y | ldXDt x => cases h; exact .loaded x _ (beq_self_eq_true x) rfl
  case rnd x kk => cases h; exact .drawn x kk _
  case orReg x y | andReg x y | xorReg x y => cases h; exact .combined x _ (beq_self_eq_true x) rfl
  case addReg x y | subReg x y | shr x y | subn x y | shl x y => cases h; exact .computed x _ _ (beq_self_eq_true x) rfl
  case ldI nnn => cases h; exact .indexSet _ (.inl ⟨nnn, rfl⟩)
  case addI x => cases h; exact .indexSet _ (.inr (.inl ⟨x, rfl⟩))
  case ldF x => cases h; exact .indexSet _ (.inr (.inr ⟨x, rfl⟩))
  case drw x y n =>
    simp only [exec, execDrw] at h
    split at h <;> cases h
    · exact .faulted _ _ _
    · exact .sprite x y n _ _
  case skp x =>
    simp only [exec, execSkp] at h
    split at h <;> cases h
    · exact effect_skip _ rfl
    · exact .faulted _ _ _
  case sknp x =>
    simp only [exec, execSknp] at h
    split at h <;> cases h
    · exact effect_skip _ rfl
    · exact .faulted _ _ _
  case ldXK x =>
    simp only [exec, execLdXK] at h
    split at h <;> cases h
    · exact .waits x
    · exact .loaded x _ (beq_self_eq_true x) rfl
  case ldDtX x => cases h; exact .delaySet x _
  case ldStX x => cases h; exact .soundSet x _
  case ldB x =>
    simp only [exec, execLdB] at h
    split at h <;> cases h
    · exact .faulted _ _ _
    · rename_i hr
      exact .digitsStored x _ _ (by simpa using rangeFault_eq_none.mp hr)
  case ldMemX x =>
    simp only [exec, execLdMemX] at h
    split at h <;> cases h
    · exact .faulted _ _ _
    · rename_i hr
      exact .registersStored x _ _ (by simpa [State.length_regsUpTo] using rangeFault_eq_none.mp hr)
  case ldXMem x =>
    simp only [exec, execLdXMem] at h
    split at h <;> cases h
    · exact .faulted _ _ _
    · exact .registersLoaded x _ (Memory.length_readBytes _ _ _)

end Sys2Proof.Machine
end

section
/-! SUPPORT and the settled statements on an instruction's writes (spec/10_state.md R20 to R33). -/

namespace Sys2Proof.Machine

/-! ## Registers and VF -/

/-- A register keeps its value when the instruction does not name it as destination and, for VF, writes no flag. -/
theorem Effect.reg_eq {i : Instr} {s t : State} (e : Effect s i t) {j : RegIx} (hdest : isDestination j i = false)
    (hflag : j = regF → writesFlag s.cfg i = false) : t.reg j = s.reg j := by
  have hne : ∀ x, isDestination x i = true → j ≠ x := by
    rintro x hx rfl
    exact absurd hx (by simp [hdest])
  cases e
  case faulted | moved | returned | called | cleared | waits | delaySet | soundSet | indexSet | digitsStored => rfl
  case loaded x b hd hf => simp [State.setReg_reg, hne x hd]
  case drawn x kk b => simp [State.setReg_reg, hne x (beq_self_eq_true x)]
  case combined x r hd hf =>
    have hvf : ¬ (s.cfg.logicVfReset = true ∧ j = regF) := fun ⟨hr, hj⟩ => by simp [← hf, hflag hj] at hr
    simp [State.setRegLogic_reg, hne x hd, hvf]
  case computed x r f hd hf =>
    have hvf : j ≠ regF := fun hj => by simp [hflag hj] at hf
    simp [State.setRegFlag_reg, hne x hd, hvf]
  case sprite x y n fb f =>
    have hvf : j ≠ regF := fun hj => by simpa [writesFlag] using hflag hj
    simp [State.setReg_reg, hvf]
  case registersStored => simp
  case registersLoaded x bytes hlen =>
    have hx := x.isLt
    have hj : x.toNat < j.toNat := by simpa [isDestination] using hdest
    rw [State.bumpIndex_reg, State.setRegsFrom_reg _ _ _ _ (by omega), dif_neg (by omega), State.advance_reg]

/-- Settles O41: VF is a register that is neither a destination nor written as a flag. -/
theorem onlyFlagWritersWriteVF : Obligations.OnlyFlagWritersWriteVF := by
  intro i s t hflag hdest h
  exact (exec_effect h).reg_eq hdest (fun _ => hflag)

/-- Settles O42: a register other than VF needs no condition on the flag. -/
theorem onlyDestinationsAreWritten : Obligations.OnlyDestinationsAreWritten := by
  intro i s t j hj hdest h
  exact (exec_effect h).reg_eq hdest (fun hF => absurd hF hj)

/-- Settles O43: the effects of a flag writer that leaves no fault are the logic results under LOGIC_VF_RESET, the
results with a flag, and the sprite. -/
theorem flagsAreZeroOrOne : Obligations.FlagsAreZeroOrOne := by
  intro i s t hw h hnone
  cases exec_effect h
  case faulted => simp [State.raiseAt] at hnone
  case moved w hpc hf | loaded x b hd hf => simp [hw] at hf
  case combined x r hd hf =>
    left
    simp [State.setRegLogic_reg, ← hf, hw]
  case computed x r f hd hf => simpa [State.setRegFlag_reg] using flagByte_zero_or_one f
  case sprite x y n fb f => simpa using flagByte_zero_or_one f
  case indexSet w hi => rcases hi with ⟨_, rfl⟩ | ⟨_, rfl⟩ | ⟨_, rfl⟩ <;> simp [writesFlag] at hw
  case returned | called | drawn | cleared | waits | delaySet | soundSet | digitsStored | registersStored | registersLoaded =>
    exact absurd hw Bool.false_ne_true

/-! ## The other parts -/

theorem Effect.stack_eq {i : Instr} {s t : State} (e : Effect s i t) :
    (∃ nnn, i = .call nnn) ∨ i = .ret ∨ (t.sp = s.sp ∧ ∀ j : Nibble, t.stackAt j = s.stackAt j) := by
  cases e
  case called nnn h => exact .inl ⟨nnn, rfl⟩
  case returned => exact .inr (.inl rfl)
  all_goals exact .inr (.inr (by simp [State.raiseAt]))

theorem Effect.pixel_eq {i : Instr} {s t : State} (e : Effect s i t) :
    i = .cls ∨ (∃ x y n, i = .drw x y n) ∨ ∀ (px : Fin 64) (py : Fin 32), t.pixel px py = s.pixel px py := by
  cases e
  case cleared => exact .inl rfl
  case sprite x y n fb f => exact .inr (.inl ⟨x, y, n, rfl⟩)
  all_goals exact .inr (.inr (by simp [State.raiseAt]))

theorem Effect.waitReg_eq {i : Instr} {s t : State} (e : Effect s i t) : (∃ x, i = .ldXK x) ∨ t.waitReg = s.waitReg := by
  cases e
  case waits x => exact .inl ⟨x, rfl⟩
  all_goals exact .inr (by simp [State.raiseAt])

theorem Effect.dt_eq {i : Instr} {s t : State} (e : Effect s i t) : (∃ x, i = .ldDtX x) ∨ t.dt = s.dt := by
  cases e
  case delaySet x b => exact .inl ⟨x, rfl⟩
  all_goals exact .inr (by simp [State.raiseAt])

theorem Effect.st_eq {i : Instr} {s t : State} (e : Effect s i t) : (∃ x, i = .ldStX x) ∨ t.st = s.st := by
  cases e
  case soundSet x b => exact .inl ⟨x, rfl⟩
  all_goals exact .inr (by simp [State.raiseAt])

theorem Effect.memRead_eq {i : Instr} {s t : State} (e : Effect s i t) :
    (∃ x, i = .ldB x) ∨ (∃ x, i = .ldMemX x) ∨ ∀ a : Nat, t.memRead a = s.memRead a := by
  cases e
  case digitsStored x a bytes h => exact .inl ⟨x, rfl⟩
  case registersStored x a bytes h => exact .inr (.inl ⟨x, rfl⟩)
  all_goals exact .inr (.inr (by simp [State.raiseAt]))

/-- I after FX55 and FX65 moves only under LOADSTORE_INCREMENTS_I. -/
theorem State.bumpIndex_index_eq_or (s : State) (x : RegIx) :
    s.cfg.loadstoreIncrementsI = true ∨ (s.bumpIndex x).index = s.index := by
  rw [State.bumpIndex_index]
  split
  · exact .inl ‹_›
  · exact .inr rfl

theorem Effect.index_eq {i : Instr} {s t : State} (e : Effect s i t) :
    (∃ nnn, i = .ldI nnn) ∨ (∃ x, i = .addI x) ∨ (∃ x, i = .ldF x) ∨
      (s.cfg.loadstoreIncrementsI = true ∧ ((∃ x, i = .ldMemX x) ∨ ∃ x, i = .ldXMem x)) ∨ t.index = s.index := by
  cases e
  case indexSet w hi => rcases hi with hi | hi | hi <;> simp [hi]
  case registersStored x a bytes h => simpa using State.bumpIndex_index_eq_or (s.advance.store a bytes) x
  case registersLoaded x bytes h => simpa using State.bumpIndex_index_eq_or (s.advance.setRegsFrom 0 bytes) x
  all_goals exact .inr (.inr (.inr (.inr (by simp [State.raiseAt]))))

/-- No instruction changes the keys, `started`, the configuration or the host's schedule (R33, R38, R43). -/
theorem exec_host_parts {i : Instr} {s t : State} (h : exec i s = .next t) :
    (∀ k : Nibble, t.keyDown k = s.keyDown k) ∧ t.started = s.started ∧ t.cfg = s.cfg ∧ t.schedule = s.schedule := by
  rcases exec_eq_next h with ⟨k, a, d, rfl, -⟩ | ⟨-, hst, hcfg, hsch, hkey⟩
  · exact ⟨fun _ => rfl, rfl, rfl, rfl⟩
  · exact ⟨fun k => by simp [State.keyDown, hkey], hst, hcfg, hsch⟩

/-- Settles O44, part by part. -/
theorem eachPartHasItsWriters : Obligations.EachPartHasItsWriters := by
  intro i s t h
  have e := exec_effect h
  exact ⟨e.stack_eq, e.pixel_eq, e.waitReg_eq, e.dt_eq, e.st_eq, e.memRead_eq, e.index_eq, exec_host_parts h⟩

/-! ## The sound timer (R31, R167) -/

/-- The result with ST replaced in its next state. -/
def resultSetSt (b : Byte) : Result → Result
  | .next t => .next (t.setSt b)
  | .fault r => .fault r
  | .refused r => .refused r

theorem State.advance_setSt (s : State) (b : Byte) : (s.setSt b).advance = s.advance.setSt b := rfl

theorem State.pickKey_setSt (s : State) (b : Byte) : (s.setSt b).pickKey = s.pickKey := rfl

theorem State.skipIf_setSt (s : State) (b : Byte) (c : Bool) : (s.setSt b).skipIf c = (s.skipIf c).setSt b := by
  cases c <;> rfl

theorem State.setRegLogic_setSt (s : State) (b : Byte) (x : RegIx) (r : Byte) :
    (s.setSt b).setRegLogic x r = (s.setRegLogic x r).setSt b := by
  unfold State.setRegLogic
  rw [State.setSt_cfg]
  split <;> rfl

theorem State.bumpIndex_setSt (s : State) (b : Byte) (x : RegIx) : (s.setSt b).bumpIndex x = (s.bumpIndex x).setSt b := by
  unfold State.bumpIndex
  rw [State.setSt_cfg]
  split <;> rfl

theorem State.setRegsFrom_setSt (s : State) (b : Byte) (j : Nat) (bytes : List Byte) :
    (s.setSt b).setRegsFrom j bytes = (s.setRegsFrom j bytes).setSt b := by
  induction bytes generalizing s j with
  | nil => rfl
  | cons c cs ih => exact ih (s.setReg (BitVec.ofNat 4 j) c) (j + 1)

theorem State.push_setSt (s : State) (b : Byte) (w : Word) :
    (s.setSt b).push w = (s.push w).map (fun t => t.setSt b) := by
  unfold State.push
  rw [State.setSt_sp]
  split <;> rfl

theorem State.pop_setSt (s : State) (b : Byte) : (s.setSt b).pop = s.pop.map (fun p => (p.1, p.2.setSt b)) := by
  unfold State.pop
  rw [State.setSt_sp]
  split
  · rfl
  · split <;> rfl

/-- exec commutes with a replaced ST, but for LD ST, VX. -/
theorem exec_setSt (i : Instr) (s : State) (b : Byte) (hi : ∀ x, i ≠ .ldStX x) :
    exec i (s.setSt b) = resultSetSt b (exec i s) := by
  cases i
  case ldStX x => exact absurd rfl (hi x)
  case sys nnn =>
    simp only [exec, execSys, State.setSt_cfg]
    split <;> rfl
  case ret =>
    simp only [exec, execRet, State.advance_setSt, State.pop_setSt]
    cases s.advance.pop <;> rfl
  case call nnn =>
    simp only [exec, execCall, State.advance_setSt, State.push_setSt, State.setSt_pc]
    cases s.advance.push s.advance.pc <;> rfl
  case seImm | sneImm | seReg | sneReg => exact congrArg Host.Outcome.next (s.advance.skipIf_setSt b _)
  case orReg | andReg | xorReg => exact congrArg Host.Outcome.next (s.advance.setRegLogic_setSt b _ _)
  case skp x | sknp x =>
    simp only [exec, execSkp, execSknp, State.setSt_reg]
    split
    · exact congrArg Host.Outcome.next (s.advance.skipIf_setSt b _)
    · rfl
  case ldXK x =>
    simp only [exec, execLdXK, State.pickKey_setSt]
    split <;> rfl
  case drw x y n =>
    simp only [exec, execDrw, State.setSt_index]
    split <;> rfl
  case ldB x =>
    simp only [exec, execLdB, State.setSt_index]
    split <;> rfl
  case ldMemX x =>
    simp only [exec, execLdMemX, State.setSt_index]
    split
    · rfl
    · exact congrArg Host.Outcome.next (State.bumpIndex_setSt (s.advance.store _ _) b x)
  case ldXMem x =>
    simp only [exec, execLdXMem, State.setSt_index, State.advance_setSt, State.setRegsFrom_setSt]
    split
    · rfl
    · exact congrArg Host.Outcome.next (State.bumpIndex_setSt _ b x)
  all_goals rfl

/-- Settles O45: exec commutes with a replaced ST, and LD ST, VX writes ST from a register. -/
theorem noInstructionReadsTheSoundTimer : Obligations.NoInstructionReadsTheSoundTimer := by
  intro i s t b h
  refine ⟨fun hi => ?_, ?_⟩
  · rw [exec_setSt i s b hi, h, resultSetSt]
  · rintro x rfl
    exact h

end Sys2Proof.Machine
end

section
/-! SUPPORT and the settled statements on the cycle and the host operations (spec/10_state.md R36, R38 to R41;
spec/60_exceptions.md R205, R221). -/

namespace Sys2Proof.Machine

/-! ## What a cycle does, case by case (R40, R205) -/

theorem cycle_of_halted {s : State} (hf : s.fault = none) (hh : s.halted = true) : cycle s = .next s.start := by
  simp [cycle, hf, hh]

theorem cycle_of_running {s : State} (hf : s.fault = none) (hh : s.halted = false) : cycle s = fetchExecute s.start := by
  simp [cycle, hf, hh]

theorem fetchExecute_of_error {s : State} {a : Nat} (h : s.fetch = .error a) :
    fetchExecute s = .next (s.raise .outOfBoundsAccess (some s.pc) none (some a) .fetch) := by
  simp [fetchExecute, h]

theorem fetchExecute_of_unsupported {s : State} {w : Word} (h : s.fetch = .ok w)
    (hd : decode s.cfg.strictDecode w = .unsupported) :
    fetchExecute s = .next (s.raise .unsupportedOpcode (some s.pc) (some w) none .decode) := by
  simp [fetchExecute, h, hd]

theorem fetchExecute_of_instr {s : State} {w : Word} {i : Instr} (h : s.fetch = .ok w)
    (hd : decode s.cfg.strictDecode w = .instr i) : fetchExecute s = exec i s := by
  simp [fetchExecute, h, hd]

theorem State.fetch_start (s : State) : s.start.fetch = s.fetch := rfl

/-- Two readable bytes at pc are the word the fetch answers (R57). -/
theorem State.fetch_of_bytes {s : State} {hi lo : Byte} (h1 : s.memRead s.pc.toNat = some hi)
    (h2 : s.memRead (s.pc.toNat + 1) = some lo) : s.fetch = .ok (wordOfBytes hi lo) := by
  simp [State.fetch, h1, h2]

/-- A cycle of a running block executes the instruction that the bytes at pc decode to. -/
theorem cycle_of_bytes {s : State} {i : Instr} {hi lo : Byte} (hf : s.fault = none) (hh : s.halted = false)
    (h1 : s.memRead s.pc.toNat = some hi) (h2 : s.memRead (s.pc.toNat + 1) = some lo)
    (hd : decode s.cfg.strictDecode (wordOfBytes hi lo) = .instr i) : cycle s = exec i s.start := by
  rw [cycle_of_running hf hh, fetchExecute_of_instr (s.fetch_start.trans (State.fetch_of_bytes h1 h2)) hd]

theorem step_of_empty_schedule {s : State} (hs : s.schedule = []) : step s = cycle s := by
  simp [step, hostStep, hs]

theorem step_of_scheduled {s : State} {op : HostOp} {rest : List HostOp} (hs : s.schedule = op :: rest) :
    step s = perform op (s.setSchedule rest) := by
  simp [step, hostStep, hs]

/-- Settles O29: a step with no schedule, or one that begins with cycle, is a cycle of the same bytes. -/
theorem stepRunsTheDecodedInstruction : Obligations.StepRunsTheDecodedInstruction := by
  intro s i hi lo hf hh h1 h2 hd
  refine ⟨fun hs => ?_, fun rest hs => ?_⟩
  · rw [step_of_empty_schedule hs]
    exact cycle_of_bytes hf hh h1 h2 hd
  · rw [step_of_scheduled hs]
    exact cycle_of_bytes (s := s.setSchedule rest) hf hh h1 h2 hd

/-- Settles O30, check by check. -/
theorem cycleChecksInOrder : Obligations.CycleChecksInOrder := by
  intro s
  refine ⟨fun hf t ht => hf (cycle_eq_next ht).1, cycle_of_halted, fun hf hh => ⟨fun hpc => ?_, fun hpc => ?_⟩⟩
  · have herr : s.start.fetch = .error (max s.pc.toNat 4096) := State.fetch_eq_error.mpr ⟨hpc, rfl⟩
    rw [cycle_of_running hf hh, fetchExecute_of_error herr]
    rfl
  · have hok : ∃ w, s.fetch = .ok w := ⟨_, State.fetch_eq_ok.mpr ⟨hpc, rfl⟩⟩
    obtain ⟨w, hw⟩ := hok
    refine ⟨w, hw, ?_⟩
    rw [cycle_of_running hf hh]
    cases hd : decode s.cfg.strictDecode w with
    | instr i => exact .inr ⟨i, rfl, fetchExecute_of_instr hw hd⟩
    | unsupported => exact .inl ⟨rfl, fetchExecute_of_unsupported hw hd⟩
    | truncated => exact absurd hd (decode_ne_truncated _ _)

/-! ## Reset and status -/

/-- Settles O28: the values R41 states do not depend on RESET_REGS; the open ones are chosen by it. -/
theorem resetValuesOfTheBlock : Obligations.ResetValuesOfTheBlock := by
  refine ⟨rfl, fun _ => rfl, ?_⟩
  rintro c d s rfl
  refine ⟨rfl, fun a ha => State.memRead_eq_some.mpr ⟨ha, rfl⟩, rfl, rfl, rfl, rfl, rfl, fun hz => ?_, fun ha => ?_⟩
  · have hchoose : ResetValues.choose c d = ResetValues.zero := by simp [ResetValues.choose, hz]
    simp [State.construct, hchoose, ResetValues.zero, State.reg, State.stackAt, State.pixel, Framebuffer.pixel, State.keyDown]
  · have hchoose : ResetValues.choose c d = d := by simp [ResetValues.choose, ha]
    simp [State.construct, hchoose]

theorem State.runStatus_eq_faulted {s : State} : s.runStatus = .faulted ↔ s.fault ≠ none := by
  unfold State.runStatus
  cases s.fault <;> cases s.halted <;> simp

theorem State.runStatus_eq_running {s : State} : s.runStatus = .running ↔ s.halted = false ∧ s.fault = none := by
  unfold State.runStatus
  cases s.fault <;> cases s.halted <;> simp

/-- A FAULTED block that waits reads as FAULTED, so a waiting status needs the fault excluded. -/
theorem State.runStatus_eq_haltedAwaitingKey {s : State} :
    s.runStatus = .haltedAwaitingKey ↔ s.halted = true ∧ s.fault = none := by
  unfold State.runStatus
  cases s.fault <;> cases s.halted <;> simp

theorem State.soundActive_eq (s : State) : s.soundActive = decide (s.st ≠ 0#8) := by
  unfold State.soundActive
  by_cases h : s.st = 0#8 <;> simp [h]

/-- Settles O59: the invariants exclude a fault in a block that waits. -/
theorem statusReadsTheRunState : Obligations.StatusReadsTheRunState := by
  intro s
  refine ⟨rfl, rfl, rfl, s.soundActive_eq, fun hinv => ⟨State.runStatus_eq_running, ?_, State.runStatus_eq_faulted⟩⟩
  refine State.runStatus_eq_haltedAwaitingKey.trans ⟨And.left, fun hh => ⟨hh, ?_⟩⟩
  cases hf : s.fault with
  | none => rfl
  | some r => exact absurd (hinv.status (by simp [hf])) (by simp [hh])

/-! ## What the keypad operations and the load do (R52, R219, R220) -/

theorem State.completeWait_started_cfg (s : State) (k : Nibble) :
    (s.completeWait k).started = s.started ∧ (s.completeWait k).cfg = s.cfg := by
  unfold State.completeWait
  split <;> exact ⟨rfl, rfl⟩

/-- A press is refused, or sets the key and completes a wait (R219, R220). -/
theorem State.press_cases (s : State) (k : Nat) :
    s.press k = s ∨ s.press k = (s.setKey (BitVec.ofNat 4 k) true).completeWait (BitVec.ofNat 4 k) := by
  unfold State.press
  exact ite_eq_or_eq _ _ _

/-- A release is refused, or clears the key (R219). -/
theorem State.release_cases (s : State) (k : Nat) :
    s.release k = s ∨ s.release k = s.setKey (BitVec.ofNat 4 k) false := by
  unfold State.release
  exact ite_eq_or_eq _ _ _

/-- A load is refused, or was asked of a block that has neither started nor faulted: there it raises
ResourceLoadFailure or stores bytes that fit (R52). -/
theorem State.loadBinary_cases (s : State) (data : List Byte) (offset : Nat) :
    s.loadBinary data offset = s ∨ (s.started = false ∧
      (s.loadBinary data offset = s.raise .resourceLoadFailure none none (some offset) .load ∨
       (offset + data.length ≤ memSize ∧ s.loadBinary data offset = s.store offset data))) := by
  unfold State.loadBinary
  split
  · exact .inl rfl
  · rename_i hno
    refine .inr ⟨by simp_all, ?_⟩
    split
    · exact .inl rfl
    · exact .inr ⟨by omega, rfl⟩

/-! ## started and the configuration (R38, R43) -/

theorem fetchExecute_keeps_started_cfg {s t : State} (h : fetchExecute s = .next t) :
    t.started = s.started ∧ t.cfg = s.cfg := by
  rcases fetchExecute_eq_next h with ⟨a, -, rfl⟩ | ⟨w, -, -, rfl⟩ | ⟨w, i, -, -, he⟩
  · exact ⟨rfl, rfl⟩
  · exact ⟨rfl, rfl⟩
  · obtain ⟨-, hst, hcfg, -⟩ := exec_host_parts he
    exact ⟨hst, hcfg⟩

theorem cycle_started_cfg {s t : State} (h : cycle s = .next t) : t.started = true ∧ t.cfg = s.cfg := by
  rcases (cycle_eq_next h).2 with ⟨-, rfl⟩ | ⟨-, he⟩
  · exact ⟨rfl, rfl⟩
  · exact fetchExecute_keeps_started_cfg he

/-- Settles O47, by the operation the step performs. -/
theorem startedIsNeverUnset : Obligations.StartedIsNeverUnset := by
  refine ⟨fun s t h => ?_, fun s t h => (cycle_started_cfg h).1⟩
  rcases step_eq_next h with ⟨-, hc⟩ | ⟨op, rest, -, hop⟩
  · obtain ⟨hst, hcfg⟩ := cycle_started_cfg hc
    exact ⟨hcfg, fun _ => hst⟩
  rcases hop with ⟨-, hc⟩ | ⟨-, -, rfl⟩ | ⟨-, k, -, rfl⟩ | ⟨-, k, -, rfl⟩ | ⟨-, data, offset, -, rfl⟩ | ⟨-, rfl⟩
  · obtain ⟨hst, hcfg⟩ := cycle_started_cfg hc
    exact ⟨hcfg, fun _ => hst⟩
  · exact ⟨rfl, id⟩
  · rcases (s.setSchedule rest).press_cases k with hp | hp <;> rw [hp]
    · exact ⟨rfl, id⟩
    · obtain ⟨hst, hcfg⟩ := ((s.setSchedule rest).setKey (BitVec.ofNat 4 k) true).completeWait_started_cfg (BitVec.ofNat 4 k)
      exact ⟨hcfg, fun h => hst.trans h⟩
  · rcases (s.setSchedule rest).release_cases k with hr | hr <;> rw [hr] <;> exact ⟨rfl, id⟩
  · rcases (s.setSchedule rest).loadBinary_cases data offset with hl | ⟨-, hl | ⟨-, hl⟩⟩ <;> rw [hl] <;> exact ⟨rfl, id⟩
  · exact ⟨rfl, id⟩

end Sys2Proof.Machine
end

section
/-! SUPPORT and the settled statement that every step keeps the invariants (`Inv` of Sys2Proof/Safety.lean). -/

namespace Sys2Proof.Machine

/-! ## Moves that keep the invariants -/

/-- The invariants speak of memory, the stack, pc, the wait, the fault record and `started` only. -/
theorem Inv.of_same {s t : State} (h : Inv s) (hmem : t.mem = s.mem) (hsp : t.sp = s.sp) (hstack : t.stack = s.stack)
    (hpc : t.pc = s.pc) (hwait : t.waitReg = s.waitReg) (hfault : t.fault = s.fault) (hstarted : t.started = s.started) :
    Inv t where
  memory := hmem ▸ h.memory
  stack := hsp ▸ h.stack
  pc := hpc ▸ h.pc
  returns j hj := by
    rw [State.stackAt, hstack]
    exact h.returns j (hsp ▸ hj)
  waiting := by
    rw [State.halted, hwait, hstarted]
    exact h.waiting
  status := by
    rw [State.halted, hwait, hfault]
    exact h.status
  record := hfault ▸ h.record
  point := by
    rw [hfault, hpc]
    exact h.point
  load := by
    rw [hfault, hstarted]
    exact h.load

/-- Without a fault only memory, the stack, pc and the wait count. -/
theorem Inv.of_no_fault {t : State} (hfault : t.fault = none) (hmem : t.mem.wf = true) (hsp : t.sp.toNat ≤ stackDepth)
    (hpc : t.pc.toNat ≤ 0x10FE) (hreturns : ∀ j : Nibble, j.toNat < t.sp.toNat → (t.stackAt j).toNat ≤ 0x1000)
    (hwait : t.halted = true → t.started = true) : Inv t where
  memory := hmem
  stack := hsp
  pc := hpc
  returns := hreturns
  waiting := hwait
  status hf := by simp [hfault] at hf
  record r hr := by simp [hfault] at hr
  point r p hr := by simp [hfault] at hr
  load r hr := by simp [hfault] at hr

/-- A block that is not halted may raise a fault of a listed cause at its own pc (R203, R206). -/
theorem Inv.raise {s : State} (h : Inv s) (hh : s.halted = false) {k : FaultKind} {p o : Option Word} {a : Option Nat}
    {d : FaultDetail} (hok : FaultRecord.Ok ⟨k, p, o, a, d⟩) (hp : p = none ∨ p = some s.pc)
    (hload : k = .resourceLoadFailure → s.started = false) : Inv (s.raise k p o a d) where
  memory := h.memory
  stack := h.stack
  pc := h.pc
  returns := h.returns
  waiting := h.waiting
  status _ := hh
  record := by
    rintro r ⟨⟩
    exact hok
  point := by
    rintro r q ⟨⟩ (hq : p = some q)
    rcases hp with hp | hp <;> simp_all
  load := by
    rintro r ⟨⟩ hk
    exact hload hk

theorem Inv.start {s : State} (h : Inv s) (hf : s.fault = none) : Inv s.start :=
  .of_no_fault hf h.memory h.stack h.pc h.returns (fun _ => rfl)

theorem Inv.setSchedule {s : State} (h : Inv s) (ops : List HostOp) : Inv (s.setSchedule ops) :=
  h.of_same rfl rfl rfl rfl rfl rfl rfl

theorem Inv.tickTimers {s : State} (h : Inv s) : Inv s.tickTimers :=
  h.of_same rfl rfl rfl rfl rfl rfl rfl

theorem Inv.setKey {s : State} (h : Inv s) (k : Nibble) (b : Bool) : Inv (s.setKey k b) :=
  h.of_same rfl rfl rfl rfl rfl rfl rfl

theorem Inv.completeWait {s : State} (h : Inv s) (hf : s.fault = none) (k : Nibble) : Inv (s.completeWait k) := by
  unfold State.completeWait
  split
  · exact .of_no_fault hf h.memory h.stack h.pc h.returns (by simp)
  · exact h

theorem Inv.press {s : State} (h : Inv s) (hf : s.fault = none) (k : Nat) : Inv (s.press k) := by
  rcases s.press_cases k with hp | hp <;> rw [hp]
  · exact h
  · exact (h.setKey _ true).completeWait hf _

theorem Inv.release {s : State} (h : Inv s) (k : Nat) : Inv (s.release k) := by
  rcases s.release_cases k with hr | hr <;> rw [hr]
  · exact h
  · exact h.setKey _ false

/-- A store of bytes that fit keeps memory in canonical form (R50, R54). -/
theorem Inv.store {s : State} (h : Inv s) {a : Nat} {bytes : List Byte} (hfit : a + bytes.length ≤ memSize) :
    Inv (s.store a bytes) where
  memory := Memory.wf_writeBytes h.memory a bytes (.inr hfit)
  stack := h.stack
  pc := h.pc
  returns := h.returns
  waiting := h.waiting
  status := h.status
  record := h.record
  point := h.point
  load := h.load

theorem Inv.bumpIndex {s : State} (h : Inv s) (x : RegIx) : Inv (s.bumpIndex x) := by
  apply h.of_same <;> simp

/-- Before the first cycle no block waits, so a load that does not fit leaves it FAULTED and not halted (R204). -/
theorem Inv.loadBinary {s : State} (h : Inv s) (data : List Byte) (offset : Nat) : Inv (s.loadBinary data offset) := by
  rcases s.loadBinary_cases data offset with hl | ⟨hst, hl | ⟨hfit, hl⟩⟩ <;> rw [hl]
  · exact h
  · have hh : s.halted = false := Bool.eq_false_iff.mpr fun hh => by simp [h.waiting hh] at hst
    exact h.raise hh ⟨rfl, rfl, rfl, rfl⟩ (.inl rfl) (fun _ => hst)
  · exact h.store hfit

/-! ## Instructions -/

/-- A new pc within the bound (R25). -/
theorem Inv.setPc {s : State} (h : Inv s) (hf : s.fault = none) {w : Word} (hw : w.toNat ≤ 0x10FE) : Inv (s.setPc w) :=
  .of_no_fault hf h.memory h.stack hw h.returns h.waiting

/-- A return address pushed is at most 0x1000, and SP at most 16 (R28, R103). -/
theorem Inv.push {s : State} (h : Inv s) (hf : s.fault = none) {w : Word} (hw : w.toNat ≤ 0x1000)
    (hsp : s.sp.toNat < stackDepth) : Inv ((s.setStack (s.stack.set s.sp.toNat w hsp)).setSp (s.sp + 1)) := by
  have hsp' : (s.sp + 1).toNat = s.sp.toNat + 1 := by
    simp only [stackDepth] at hsp
    rw [BitVec.toNat_add]
    simp
    omega
  refine .of_no_fault hf h.memory (hsp'.trans_le hsp) h.pc (fun j hj => ?_) h.waiting
  rw [State.setSp_stackAt, State.setStack_set_stackAt]
  rw [State.setSp_sp, hsp'] at hj
  split
  · exact hw
  · exact h.returns j (by omega)

/-- A pop frees the top entry and keeps the others (R28, R29). -/
theorem Inv.pop {s : State} (h : Inv s) (hf : s.fault = none) (h1 : 1 ≤ s.sp.toNat) : Inv (s.setSp (s.sp - 1)) := by
  have hsp' : (s.sp - 1).toNat = s.sp.toNat - 1 := by
    have := s.sp.isLt
    rw [BitVec.toNat_sub]
    simp
    omega
  have hsp := h.stack
  refine .of_no_fault hf h.memory (by rw [State.setSp_sp]; omega) h.pc (fun j hj => ?_) h.waiting
  rw [State.setSp_sp, hsp'] at hj
  exact h.returns j (by omega)

/-- The return address a pop answers is one in use. -/
theorem Inv.top_le {s : State} (h : Inv s) (h1 : 1 ≤ s.sp.toNat) :
    (s.stackAt (BitVec.ofNat 4 (s.sp.toNat - 1))).toNat ≤ 0x1000 := by
  have hsp := h.stack
  simp only [stackDepth] at hsp
  apply h.returns
  rw [BitVec.toNat_ofNat]
  omega

/-- An instruction fetched by a running block keeps the invariants, effect by effect. -/
theorem Effect.keeps_inv {i : Instr} {s t : State} (e : Effect s i t) (h : Inv s) (hf : s.fault = none) (hst : s.started = true)
    (hfetch : s.pc.toNat + 1 < memSize) (hft : t.fault = none) : Inv t := by
  have hpc : s.pc.toNat < memSize := by omega
  have hadv : Inv s.advance := h.setPc hf (toNat_pc_add_two_le hpc)
  cases e
  case faulted => simp [State.raiseAt] at hft
  case moved w hw _ => exact h.setPc hf (hw hpc)
  case returned h1 _ => exact (hadv.pop hf h1).setPc hf ((h.top_le h1).trans (by omega))
  case called nnn hsp =>
    have hret : (s.pc + 2).toNat ≤ 0x1000 := by
      simp only [memSize] at hfetch
      rw [BitVec.toNat_add]
      simp
      omega
    exact (hadv.push hf hret hsp).setPc hf (toNat_addrOf_le nnn)
  case waits x => exact .of_no_fault hf hadv.memory hadv.stack hadv.pc hadv.returns (fun _ => hst)
  case digitsStored x a bytes hfit => exact hadv.store hfit
  case registersStored x a bytes hfit => exact (hadv.store hfit).bumpIndex x
  all_goals apply hadv.of_same <;> simp

/-- An instruction raises a fault of a listed cause (R201), or none and has one of the effects. -/
theorem exec_keeps_inv {i : Instr} {s t : State} (he : exec i s = .next t) (h : Inv s) (hf : s.fault = none)
    (hh : s.halted = false) (hst : s.started = true) (hfetch : s.pc.toNat + 1 < memSize) : Inv t := by
  rcases exec_eq_next he with
    ⟨k, a, d, rfl, ⟨rfl, rfl, rfl⟩ | ⟨rfl, rfl, rfl | rfl⟩ | ⟨rfl, ha, rfl | rfl⟩ | ⟨rfl, ha, rfl⟩⟩ | ⟨hft, -⟩
  · exact h.raise hh ⟨rfl, rfl, rfl, rfl⟩ (.inr rfl) nofun
  · exact h.raise hh ⟨rfl, rfl, rfl, rfl⟩ (.inr rfl) nofun
  · exact h.raise hh ⟨rfl, rfl, rfl, rfl⟩ (.inr rfl) nofun
  · exact h.raise hh ⟨rfl, rfl, rfl, ha⟩ (.inr rfl) nofun
  · exact h.raise hh ⟨rfl, rfl, rfl, ha⟩ (.inr rfl) nofun
  · exact h.raise hh ⟨rfl, rfl, rfl, ha⟩ (.inr rfl) nofun
  · exact (exec_effect he).keeps_inv h hf hst hfetch (hft.trans hf)

/-! ## Cycles and steps -/

theorem fetchExecute_keeps_inv {s t : State} (he : fetchExecute s = .next t) (h : Inv s) (hf : s.fault = none)
    (hh : s.halted = false) (hst : s.started = true) : Inv t := by
  rcases fetchExecute_eq_next he with ⟨a, ha, rfl⟩ | ⟨w, -, -, rfl⟩ | ⟨w, i, hw, -, hx⟩
  · obtain ⟨-, rfl⟩ := State.fetch_eq_error.mp ha
    exact h.raise hh ⟨rfl, rfl, rfl, _, rfl, le_max_right _ _⟩ (.inr rfl) nofun
  · exact h.raise hh ⟨rfl, rfl, rfl, rfl⟩ (.inr rfl) nofun
  · exact exec_keeps_inv hx h hf hh hst (State.fetch_eq_ok.mp hw).1

theorem cycle_keeps_inv {s t : State} (hc : cycle s = .next t) (h : Inv s) : Inv t := by
  obtain ⟨hf, ⟨-, rfl⟩ | ⟨hh, he⟩⟩ := cycle_eq_next hc
  · exact h.start hf
  · exact fetchExecute_keeps_inv he (h.start hf) hf hh rfl

/-- Settles O37, by the operation the step performs. -/
theorem everyStepKeepsTheInvariants : Obligations.EveryStepKeepsTheInvariants := by
  intro s t h hstep
  rcases step_eq_next hstep with ⟨-, hc⟩ | ⟨op, rest, -, hop⟩
  · exact cycle_keeps_inv hc h
  have hs := h.setSchedule rest
  rcases hop with ⟨-, hc⟩ | ⟨-, -, rfl⟩ | ⟨hf, k, -, rfl⟩ | ⟨-, k, -, rfl⟩ | ⟨-, data, offset, -, rfl⟩ | ⟨-, rfl⟩
  · exact cycle_keeps_inv hc hs
  · exact hs.tickTimers
  · exact hs.press hf k
  · exact hs.release k
  · exact hs.loadBinary data offset
  · exact hs

end Sys2Proof.Machine
end

section
/-! SUPPORT and the settled statements on memory: the bounds-checked accesses, the fetch, load_binary
(spec/20_memory.md R52 to R54, R57, R67). -/

namespace Sys2Proof.Machine

/-! ## The bounds-checked accesses (R53, R54) -/

/-- MemRead fails exactly at 4096 and above. -/
theorem State.memRead_eq_none {s : State} {a : Nat} : s.memRead a = none ↔ memSize ≤ a := by
  simp [State.memRead]

/-- MemWrite below 4096 is the store of one byte. -/
theorem State.memWrite_of_lt (s : State) {a : Nat} (b : Byte) (ha : a < memSize) :
    s.memWrite a b = some (s.store a [b]) :=
  if_pos ha

/-- MemWrite fails at 4096 and above. -/
theorem State.memWrite_of_le (s : State) {a : Nat} (b : Byte) (ha : memSize ≤ a) : s.memWrite a b = none :=
  if_neg (Nat.not_lt.mpr ha)

/-! ## What a store leaves -/

/-- Inside a range that fits, a stored byte reads as written. -/
theorem State.memRead_store_inside (s : State) {a j : Nat} {xs : List Byte} (hj : j < xs.length)
    (hfit : a + xs.length ≤ memSize) : (s.store a xs).memRead (a + j) = xs[j]? := by
  rw [State.memRead_store, dif_pos (by omega), List.getElem?_eq_getElem hj]
  simp only [Nat.add_sub_cancel_left]

/-- Outside the stored range every byte reads as before. -/
theorem State.store_bytesKeptOutside (s : State) (a : Nat) (xs : List Byte) :
    BytesKeptOutside a xs.length s (s.store a xs) := by
  intro b hb
  rw [State.memRead_store, dif_neg (by omega)]

/-- A store changes no part but memory. -/
theorem State.store_keptBut (s : State) (a : Nat) (xs : List Byte) : KeptBut [.memory] s (s.store a xs) := by
  refine ⟨fun p hp => ?_, rfl, rfl, rfl⟩
  cases p
  case memory => exact absurd List.mem_cons_self hp
  all_goals simp [SamePart]

/-- Settles O52: below 4096 MemWrite is a store of one byte; above, neither access passes its bound. -/
theorem writeThenReadGivesTheByte : Obligations.WriteThenReadGivesTheByte := by
  intro s a b
  refine ⟨fun ha => ⟨s.store a [b], s.memWrite_of_lt b ha, ?_, fun c hc => ?_⟩, fun ha => ?_⟩
  · exact s.memRead_store_inside (xs := [b]) (j := 0) Nat.one_pos ha
  · have hout : c < a ∨ a + [b].length ≤ c := by simp only [List.length_singleton]; omega
    exact s.store_bytesKeptOutside a [b] c hout
  · exact ⟨s.memWrite_of_le b ha, State.memRead_eq_none.mpr ha⟩

/-! ## load_binary (R52) -/

/-- load_binary in a block without a fault answers what the load leaves. -/
theorem perform_loadBinary {s : State} (hf : s.fault = none) (data : List Byte) (offset : Nat) :
    perform (.loadBinary data offset) s = .next (s.loadBinary data offset) :=
  (unlessFaulted_eq_next (f := fun t => t.loadBinary data offset)).mpr ⟨hf, rfl⟩

/-- A load asked of a block that has started or faulted is refused. -/
theorem State.loadBinary_of_refused {s : State} (h : s.started = true ∨ s.fault ≠ none) (data : List Byte) (offset : Nat) :
    s.loadBinary data offset = s := by
  unfold State.loadBinary
  exact if_pos (by simpa [Option.isSome_iff_ne_none] using h)

/-- Settles O56: a load that fits is a store, one that does not raises the fault, and a refused one is no move. -/
theorem loadBinaryCopiesOrFails : Obligations.LoadBinaryCopiesOrFails := by
  intro s data offset
  refine ⟨fun hst hf hfit => ?_, fun hst hf hover => ?_, fun h => State.loadBinary_of_refused h data offset⟩
  · have hload : perform (.loadBinary data offset) s = .next (s.store offset data) := by
      rw [perform_loadBinary hf, State.loadBinary_of_fits s data offset hst hf hfit]
    exact ⟨s.store offset data, hload, rfl, fun j hj => s.memRead_store_inside hj hfit,
      s.store_bytesKeptOutside offset data, s.store_keptBut offset data⟩
  · rw [perform_loadBinary hf, State.loadBinary_of_overflow s data offset hst hf hover]
    rfl

/-! ## Fetch (R57) -/

/-- Settles O31: inside memory the fetch is the word of the two bytes read; across its end it names the first
address at 4096 or above. -/
theorem fetchIsBigEndian : Obligations.FetchIsBigEndian := by
  intro s
  refine ⟨fun hpc => ?_, fun hpc => ?_, fun hpc => ?_⟩
  · have hhi : s.memRead s.pc.toNat = some (s.mem.read s.pc.toNat) :=
      State.memRead_eq_some.mpr ⟨Nat.lt_of_succ_lt hpc, rfl⟩
    have hlo : s.memRead (s.pc.toNat + 1) = some (s.mem.read (s.pc.toNat + 1)) :=
      State.memRead_eq_some.mpr ⟨hpc, rfl⟩
    exact ⟨_, _, _, hhi, hlo, State.fetch_of_bytes hhi hlo, toNat_wordOfBytes _ _⟩
  · exact State.fetch_eq_error.mpr (by simp [hpc])
  · exact State.fetch_eq_error.mpr ⟨Nat.le_succ_of_le hpc, (Nat.max_eq_left hpc).symm⟩

/-! ## A store at pc is what the fetch reads (R67) -/

/-- Two bytes or more stored at pc: the fetch answers the word of the first two. -/
theorem State.fetch_store_at_pc (s : State) {a : Nat} {xs : List Byte} (hpc : s.pc.toNat = a) (hlen : 2 ≤ xs.length)
    (hfit : a + xs.length ≤ memSize) : (s.store a xs).fetch = .ok (wordOfBytes xs[0] xs[1]) := by
  subst hpc
  apply State.fetch_of_bytes
  · exact (s.memRead_store_inside (j := 0) (by omega) hfit).trans (List.getElem?_eq_getElem _)
  · exact (s.memRead_store_inside (j := 1) (by omega) hfit).trans (List.getElem?_eq_getElem _)

/-- The fetch does not depend on I. -/
theorem State.fetch_bumpIndex (s : State) (x : RegIx) : (s.bumpIndex x).fetch = s.fetch := by
  simp [State.fetch]

/-- FX55 whose bytes fit stores them (R185). -/
theorem exec_ldMemX_of_fits (x : RegIx) (s : State) (hfit : s.index.toNat + (x.toNat + 1) ≤ memSize) :
    exec (.ldMemX x) s = .next ((s.advance.store s.index.toNat (s.regsUpTo x)).bumpIndex x) := by
  simp only [exec, execLdMemX, rangeFault_eq_none.mpr (.inr hfit)]

/-- FX33 whose digits fit stores them (R184). -/
theorem exec_ldB_of_fits (x : RegIx) (s : State) (hfit : s.index.toNat + 3 ≤ memSize) :
    exec (.ldB x) s = .next (s.advance.store s.index.toNat (bcdDigits (s.reg x))) := by
  simp only [exec, execLdB, rangeFault_eq_none.mpr (.inr hfit)]

/-- Settles O50: each of the three operations is a store at the pc that the next fetch reads from. -/
theorem aStoreIsSeenByTheNextFetch : Obligations.AStoreIsSeenByTheNextFetch := by
  refine ⟨fun x s t hidx hfit hx h => ?_, fun x s t hidx hfit h => ?_, fun s hi lo hst hf hfit => ?_⟩
  · rw [exec_ldMemX_of_fits x s hfit] at h
    cases h
    have hlen : (s.regsUpTo x).length = x.toNat + 1 := s.length_regsUpTo x
    have h0 : (s.regsUpTo x)[0] = s.reg 0x0#4 := s.getElem_regsUpTo x 0x0#4 (by simp [hlen])
    have h1 : (s.regsUpTo x)[1] = s.reg 0x1#4 := s.getElem_regsUpTo x 0x1#4 (by simp [hlen]; omega)
    rw [State.fetch_bumpIndex, ← h0, ← h1]
    exact s.advance.fetch_store_at_pc (congrArg BitVec.toNat hidx.symm) (by omega) (by rw [hlen]; exact hfit)
  · rw [exec_ldB_of_fits x s hfit] at h
    cases h
    exact s.advance.fetch_store_at_pc (xs := bcdDigits (s.reg x)) (congrArg BitVec.toNat hidx.symm) (by simp) hfit
  · rw [State.loadBinary_of_fits s [hi, lo] s.pc.toNat hst hf hfit]
    exact s.fetch_store_at_pc (xs := [hi, lo]) rfl (by simp) hfit

end Sys2Proof.Machine
end

section
/-! SUPPORT and the settled statements on the encoding: decode, encode and the opcode map (spec/30_encoding.md R70 to R82). -/

namespace Sys2Proof

open Sys2Proof.Laws Sys2Proof.Machine

/-! ## Words of group 0 (R77, R81) -/

theorem encA_inj {op : Nibble} {a b : Addr} : encA op a = encA op b ↔ a = b :=
  ⟨fun h => by simpa using congrArg nnnOf h, congrArg (encA op)⟩

/-- A SYS term is well-formed exactly when its word is not the one of CLS or RET. -/
theorem wellFormed_sys {nnn : Addr} :
    WellFormed (.sys nnn) = true ↔ encA 0x0#4 nnn ≠ 0x00E0#16 ∧ encA 0x0#4 nnn ≠ 0x00EE#16 := by
  have hcls : encA 0x0#4 0x0E0 = 0x00E0#16 := rfl
  have hret : encA 0x0#4 0x0EE = 0x00EE#16 := rfl
  simp [WellFormed, ← hcls, ← hret, encA_inj]

theorem decode0_of_ne {w : Word} (hcls : w ≠ 0x00E0#16) (hret : w ≠ 0x00EE#16) : decode0 w = .instr (.sys (nnnOf w)) := by
  simp [decode0, hcls, hret]

/-! ## Decode of encode (R80, R85) -/

theorem decode_encode (strict : Bool) {i : Instr} (hi : WellFormed i = true) : decode strict (encode i) = .instr i := by
  cases i
  case sys nnn =>
    obtain ⟨hcls, hret⟩ := wellFormed_sys.mp hi
    simp [decode, encode, decode0_of_ne hcls hret]
  case cls | ret => rfl
  case ldReg | orReg | andReg | xorReg | addReg | subReg | shr | subn | shl => simp [decode, encode, decode8]
  case skp | sknp => simp [decode, encode, decodeE]
  case ldXDt | ldXK | ldDtX | ldStX | addI | ldF | ldB | ldMemX | ldXMem => simp [decode, encode, decodeF]
  all_goals simp [decode, encode]

theorem decodeBytes_encodeBytes (strict : Bool) (i : Instr) (rest : List Byte) :
    decodeBytes strict (encodeBytes i ++ rest) = decode strict (encode i) :=
  congrArg (decode strict) (wordOfBytes_split (encode i))

/-- Settles O35: the two bytes of a word are decoded as the word. -/
theorem decodeOfEncode : Obligations.DecodeOfEncode := by
  intro strict i rest hi
  exact ⟨decode_encode strict hi, (decodeBytes_encodeBytes strict i rest).trans (decode_encode strict hi)⟩

/-- The word of a well-formed instruction decodes to it under either value of STRICT_DECODE. -/
theorem decodes_of_encode {w : Word} {i : Instr} (hw : encode i = w) (hi : WellFormed i = true) : Decodes w i :=
  fun strict => hw ▸ decode_encode strict hi

/-- Settles O32: each of the fourteen words is the word of a well-formed instruction. -/
theorem spelledWordsDecode : Obligations.SpelledWordsDecode := by
  refine ⟨?_, ?_, ?_, ?_, ?_, ?_, ?_, ?_, ?_, ?_, ?_, ?_, ?_, ?_, rfl, rfl, rfl, rfl⟩
  all_goals exact decodes_of_encode rfl rfl

/-! ## Encode of decode (R70, R75, R85) -/

theorem encA_of_op {w : Word} {op : Nibble} (h : opOf w = op) : encA op (nnnOf w) = w := h ▸ encA_fields w

theorem encR_of_op {w : Word} {op : Nibble} (h : opOf w = op) : encR op (xOf w) (kkOf w) = w := h ▸ encR_fields w

theorem encRR_of_op {w : Word} {op : Nibble} (h : opOf w = op) : encRR op (xOf w) (yOf w) (nOf w) = w :=
  h ▸ encRR_fields w

theorem decode8_eq_instr {x y : RegIx} {n : Nibble} {i : Instr} (h : decode8 x y n = .instr i) :
    encode i = encRR 0x8 x y n ∧ WellFormed i = true := by
  unfold decode8 at h
  split at h <;> cases h <;> exact ⟨rfl, rfl⟩

theorem decodeE_eq_instr {x : RegIx} {kk : Byte} {i : Instr} (h : decodeE x kk = .instr i) :
    encode i = encRF 0xE x kk ∧ WellFormed i = true := by
  unfold decodeE at h
  split at h <;> cases h <;> exact ⟨rfl, rfl⟩

theorem decodeF_eq_instr {x : RegIx} {kk : Byte} {i : Instr} (h : decodeF x kk = .instr i) :
    encode i = encRF 0xF x kk ∧ WellFormed i = true := by
  unfold decodeF at h
  split at h <;> cases h <;> exact ⟨rfl, rfl⟩

theorem decode0_eq_instr {w : Word} {i : Instr} (hw : opOf w = 0x0#4) (h : decode0 w = .instr i) :
    encode i = w ∧ WellFormed i = true := by
  have hsys : encA 0x0#4 (nnnOf w) = w := encA_of_op hw
  unfold decode0 at h
  split at h
  · cases h; exact ⟨Eq.symm ‹_›, rfl⟩
  · split at h <;> cases h
    · exact ⟨Eq.symm ‹_›, rfl⟩
    · exact ⟨hsys, wellFormed_sys.mpr (by rw [hsys]; exact ⟨‹_›, ‹_›⟩)⟩

/-- Settles O36, by the group of the word: its fields are the operands, and make the word up again. -/
theorem encodeOfDecode : Obligations.EncodeOfDecode := by
  intro w i h
  unfold decode at h
  split at h
  case h_1 hop => exact decode0_eq_instr hop h
  case h_6 hop | h_10 hop =>
    split at h <;> cases h
    rename_i hn
    have hn : nOf w = 0x0#4 := by simpa using hn
    have hw := encRR_of_op hop
    rw [hn] at hw
    exact ⟨hw, rfl⟩
  case h_9 hop => exact (decode8_eq_instr h).imp_left (·.trans (encRR_of_op hop))
  case h_15 hop => exact (decodeE_eq_instr h).imp_left (·.trans (encR_of_op hop))
  case h_16 =>
    have hop : opOf w = 0xF#4 := by simp only [imp_false] at *; bv_omega
    exact (decodeF_eq_instr h).imp_left (·.trans (encR_of_op hop))
  case h_2 hop | h_3 hop | h_11 hop | h_12 hop => cases h; exact ⟨encA_of_op hop, rfl⟩
  case h_4 hop | h_5 hop | h_7 hop | h_8 hop | h_13 hop => cases h; exact ⟨encR_of_op hop, rfl⟩
  case h_14 hop => cases h; exact ⟨encRR_of_op hop, rfl⟩

/-! ## The opcode map (R76, R81) -/

theorem encode_mask_row : ∀ i : Instr, encode i &&& (rowOf i).2 = (rowOf i).1
  | .sys nnn => OpcodeMap.sys nnn
  | .cls => OpcodeMap.cls
  | .ret => OpcodeMap.ret
  | .jp nnn => OpcodeMap.jp nnn
  | .call nnn => OpcodeMap.call nnn
  | .seImm x kk => OpcodeMap.seImm x kk
  | .sneImm x kk => OpcodeMap.sneImm x kk
  | .seReg x y => OpcodeMap.seReg x y
  | .ldImm x kk => OpcodeMap.ldImm x kk
  | .addImm x kk => OpcodeMap.addImm x kk
  | .ldReg x y => OpcodeMap.ldReg x y
  | .orReg x y => OpcodeMap.orReg x y
  | .andReg x y => OpcodeMap.andReg x y
  | .xorReg x y => OpcodeMap.xorReg x y
  | .addReg x y => OpcodeMap.addReg x y
  | .subReg x y => OpcodeMap.subReg x y
  | .shr x y => OpcodeMap.shr x y
  | .subn x y => OpcodeMap.subn x y
  | .shl x y => OpcodeMap.shl x y
  | .sneReg x y => OpcodeMap.sneReg x y
  | .ldI nnn => OpcodeMap.ldI nnn
  | .jpV0 nnn => OpcodeMap.jpV0 nnn
  | .rnd x kk => OpcodeMap.rnd x kk
  | .drw x y n => OpcodeMap.drw x y n
  | .skp x => OpcodeMap.skp x
  | .sknp x => OpcodeMap.sknp x
  | .ldXDt x => OpcodeMap.ldXDt x
  | .ldXK x => OpcodeMap.ldXK x
  | .ldDtX x => OpcodeMap.ldDtX x
  | .ldStX x => OpcodeMap.ldStX x
  | .addI x => OpcodeMap.addI x
  | .ldF x => OpcodeMap.ldF x
  | .ldB x => OpcodeMap.ldB x
  | .ldMemX x => OpcodeMap.ldMemX x
  | .ldXMem x => OpcodeMap.ldXMem x

/-- Only the row of SYS has match value 0. -/
theorem eq_sys_of_row {i : Instr} (h : (rowOf i).1 = 0x0000#16) : ∃ nnn, i = .sys nnn := by
  cases i
  case sys nnn => exact ⟨nnn, rfl⟩
  all_goals simp [rowOf] at h

theorem opOf_of_mask {w c : Word} (h : w &&& 0xF000#16 = c) : opOf w = opOf c := by
  rw [← h, mask_op, opOf_encA]

theorem fields_of_mask_n {w c : Word} (h : w &&& 0xF00F#16 = c) : opOf w = opOf c ∧ nOf w = nOf c := by
  rw [← h, mask_op_n, opOf_encRR, nOf_encRR]; exact ⟨rfl, rfl⟩

theorem fields_of_mask_kk {w c : Word} (h : w &&& 0xF0FF#16 = c) : opOf w = opOf c ∧ kkOf w = kkOf c := by
  rw [← h, mask_op_kk, opOf_encRF, kkOf_encRF]; exact ⟨rfl, rfl⟩

/-- A word that matches a row of the map decodes to an instruction of that row, SYS excluding two words (R76, R77). -/
theorem decode_of_matches_row {w : Word} {i : Instr} (h : w &&& (rowOf i).2 = (rowOf i).1)
    (hsys : (rowOf i).1 = 0x0000#16 → w ≠ 0x00E0#16 ∧ w ≠ 0x00EE#16) :
    ∃ j, decode true w = .instr j ∧ rowOf j = rowOf i := by
  cases i <;> simp only [rowOf] at h
  case sys nnn =>
    have hop := opOf_of_mask h
    obtain ⟨hcls, hret⟩ := hsys rfl
    rw [decode, hop]
    exact ⟨_, decode0_of_ne hcls hret, rfl⟩
  case cls | ret =>
    obtain rfl := (BitVec.and_allOnes (x := w)).symm.trans h
    exact ⟨_, rfl, rfl⟩
  case seReg | sneReg | ldReg | orReg | andReg | xorReg | addReg | subReg | shr | subn | shl =>
    obtain ⟨hop, hn⟩ := fields_of_mask_n h
    rw [decode, hop, hn]
    exact ⟨_, rfl, rfl⟩
  case skp | sknp | ldXDt | ldXK | ldDtX | ldStX | addI | ldF | ldB | ldMemX | ldXMem =>
    obtain ⟨hop, hkk⟩ := fields_of_mask_kk h
    rw [decode, hop, hkk]
    exact ⟨_, rfl, rfl⟩
  all_goals
    have hop := opOf_of_mask h
    rw [decode, hop]
    exact ⟨_, rfl, rfl⟩

/-- STRICT_DECODE makes no difference outside rows 8 and 20 (R75). -/
theorem decode_eq_of_op_ne {w : Word} (h5 : opOf w ≠ 0x5#4) (h9 : opOf w ≠ 0x9#4) (a b : Bool) : decode a w = decode b w := by
  unfold decode
  split
  case h_6 h => exact absurd h h5
  case h_10 h => exact absurd h h9
  all_goals rfl

theorem decode_lenient_op5 {w : Word} (h : opOf w = 0x5#4) : decode false w = .instr (.seReg (xOf w) (yOf w)) := by
  simp [decode, h]

theorem decode_lenient_op9 {w : Word} (h : opOf w = 0x9#4) : decode false w = .instr (.sneReg (xOf w) (yOf w)) := by
  simp [decode, h]

theorem mask_of_op {w : Word} {op : Nibble} (h : opOf w = op) : w &&& 0xF000#16 = encA op 0x000 := h ▸ mask_op w

/-- Settles O33: the word an instruction decodes from is its own word, and so matches its row. -/
theorem opcodeMapIsUnambiguous : Obligations.OpcodeMapIsUnambiguous := by
  refine ⟨fun w i => ⟨fun ⟨hrow, hsys⟩ => decode_of_matches_row hrow hsys, ?_⟩,
    fun w h => decode_lenient_op5 (opOf_of_mask h), fun w h => decode_lenient_op9 (opOf_of_mask h),
    fun w h5 h9 => decode_eq_of_op_ne (fun h => h5 (mask_of_op h)) (fun h => h9 (mask_of_op h)) false true⟩
  rintro ⟨j, hj, hrow⟩
  obtain ⟨rfl, hwf⟩ := encodeOfDecode w j hj
  rw [← hrow]
  refine ⟨encode_mask_row j, fun hzero => ?_⟩
  obtain ⟨nnn, rfl⟩ := eq_sys_of_row hzero
  exact wellFormed_sys.mp hwf

/-! ## Unsupported words (R78) -/

theorem decode0_ne_unsupported (w : Word) : decode0 w ≠ .unsupported := by
  unfold decode0
  split
  · nofun
  · split <;> nofun

theorem decode8_eq_unsupported {x y : RegIx} {n : Nibble} :
    decode8 x y n = .unsupported ↔ n ∈ [0x8#4, 0x9#4, 0xA#4, 0xB#4, 0xC#4, 0xD#4, 0xF#4] := by
  unfold decode8
  split
  case h_10 =>
    refine iff_of_true rfl ?_
    simp only [imp_false] at *
    simp only [List.mem_cons, List.not_mem_nil, or_false]
    bv_omega
  all_goals simp

theorem decodeE_eq_unsupported {x : RegIx} {kk : Byte} : decodeE x kk = .unsupported ↔ kk ∉ [0x9E#8, 0xA1#8] := by
  unfold decodeE
  split
  case h_3 =>
    simp only [imp_false] at *
    simp [*]
  all_goals simp

theorem decodeF_eq_unsupported {x : RegIx} {kk : Byte} : decodeF x kk = .unsupported ↔
    kk ∉ [0x07#8, 0x0A#8, 0x15#8, 0x18#8, 0x1E#8, 0x29#8, 0x33#8, 0x55#8, 0x65#8] := by
  unfold decodeF
  split
  case h_10 =>
    simp only [imp_false] at *
    simp [*]
  all_goals simp

theorem decode_eq_unsupported {strict : Bool} {w : Word} : decode strict w = .unsupported ↔
    (strict = true ∧ (opOf w = 0x5#4 ∨ opOf w = 0x9#4) ∧ nOf w ≠ 0x0#4) ∨
    (opOf w = 0x8#4 ∧ nOf w ∈ [0x8#4, 0x9#4, 0xA#4, 0xB#4, 0xC#4, 0xD#4, 0xF#4]) ∨
    (opOf w = 0xE#4 ∧ kkOf w ∉ [0x9E#8, 0xA1#8]) ∨
    (opOf w = 0xF#4 ∧ kkOf w ∉ [0x07#8, 0x0A#8, 0x15#8, 0x18#8, 0x1E#8, 0x29#8, 0x33#8, 0x55#8, 0x65#8]) := by
  unfold decode
  split
  case h_1 hop => simp [hop, decode0_ne_unsupported]
  case h_6 hop | h_10 hop => simp [hop, and_comm]
  case h_9 hop => rw [decode8_eq_unsupported]; simp [hop]
  case h_15 hop => rw [decodeE_eq_unsupported]; simp [hop]
  case h_16 =>
    have hop : opOf w = 0xF#4 := by simp only [imp_false] at *; bv_omega
    rw [decodeF_eq_unsupported]
    simp [hop]
  all_goals simp [*]

/-- A word of group 0 other than CLS and RET decodes to SYS, and is the word of that SYS (R77). -/
theorem decode_sys_word {w : Word} (hop : opOf w = 0x0#4) (hcls : w ≠ 0x00E0#16) (hret : w ≠ 0x00EE#16) (strict : Bool) :
    decode strict w = .instr (.sys (nnnOf w)) ∧ encode (.sys (nnnOf w)) = w := by
  refine ⟨?_, encA_of_op hop⟩
  rw [decode, hop]
  exact decode0_of_ne hcls hret

end Sys2Proof
end

section
/-! SUPPORT and the settled statements on the words that fault and the fields that are ignored (spec/30_encoding.md R78,
R82; spec/60_exceptions.md R202). -/

namespace Sys2Proof.Machine

/-! ## Words that fault (R78, R100, R202) -/

/-- SYS under SYS_POLICY = fault raises UnsupportedOpcode with its own word (R100). -/
theorem exec_sys_fault {nnn : Addr} {s : State} (h : s.cfg.sysPolicy = .fault) :
    exec (.sys nnn) s = .next (s.raise .unsupportedOpcode (some s.pc) (some (encode (.sys nnn))) none .decode) := by
  simp only [exec, execSys, h, State.raiseAt]

theorem exec_sys_nop {nnn : Addr} {s : State} (h : s.cfg.sysPolicy = .nop) : exec (.sys nnn) s = .next s.advance := by
  simp only [exec, execSys, h]

/-- Settles O34: the cycle rejects the word, or executes a SYS that raises the same fault. -/
theorem unsupportedWordsFault : Obligations.UnsupportedWordsFault := by
  refine ⟨fun strict w => decode_eq_unsupported, fun s w hf hh hw h => ?_⟩
  rw [cycle_of_running hf hh]
  rcases h with hd | ⟨hpol, hop, hcls, hret⟩
  · exact fetchExecute_of_unsupported hw hd
  · obtain ⟨hd, henc⟩ := decode_sys_word hop hcls hret s.cfg.strictDecode
    rw [fetchExecute_of_instr (s.fetch_start.trans hw) hd, exec_sys_fault (s := s.start) hpol, henc]
    rfl

/-! ## Ignored fields (R82) -/

/-- What a SYS leaves but for the fault record does not depend on NNN. -/
theorem exec_sys_but_fault {a b : Addr} {s t u : State} (ht : exec (.sys a) s = .next t) (hu : exec (.sys b) s = .next u) :
    { t with fault := none } = { u with fault := none } := by
  cases h : s.cfg.sysPolicy with
  | fault =>
    rw [exec_sys_fault h] at ht hu
    cases ht; cases hu
    rfl
  | nop =>
    rw [exec_sys_nop h] at ht hu
    cases ht; cases hu
    rfl

theorem State.shiftOperand_vx {s : State} (h : s.cfg.shiftSource = .vx) (x y : RegIx) : s.shiftOperand x y = s.reg x := by
  simp only [State.shiftOperand, h]

/-- Settles O51, field by field: Y of the shifts, n of rows 8 and 20, NNN of SYS. -/
theorem ignoredFieldsMakeNoDifference : Obligations.IgnoredFieldsMakeNoDifference := by
  refine ⟨fun x y z s h => ?_, fun x y n m => ?_, fun a b s t u => exec_sys_but_fault⟩
  · simp only [exec, execShr, execShl, State.shiftOperand_vx h, and_self]
  · simp [decode_lenient_op5, decode_lenient_op9]

end Sys2Proof.Machine
end

section
/-! SUPPORT and the settled statements on control flow: SYS, RET, the jumps, CALL and the skips
(spec/40_control_flow.md R100 to R108). -/

namespace Sys2Proof.Machine

/-! ## Frames of the control-flow updates -/

theorem KeptBut.refl (changed : List Part) (s : State) : KeptBut changed s s := by
  refine ⟨fun p _ => ?_, rfl, rfl, rfl⟩
  cases p
  all_goals simp [SamePart]

/-- A frame says nothing of pc, so it is kept by a move of pc. -/
theorem KeptBut.setPc {changed : List Part} {s t : State} (h : KeptBut changed s t) (w : Word) :
    KeptBut changed s (t.setPc w) := by
  obtain ⟨hparts, hrest⟩ := h
  refine ⟨fun p hp => ?_, hrest⟩
  have hp := hparts p hp
  cases p
  all_goals exact hp

theorem State.setPc_keptBut (s : State) (w : Word) : KeptBut [] s (s.setPc w) := (KeptBut.refl [] s).setPc w

theorem State.advance_keptBut (s : State) : KeptBut [] s s.advance := s.setPc_keptBut (s.pc + 2)

theorem State.setSp_keptBut (s : State) (b : Byte) : KeptBut [.stackPointer] s (s.setSp b) := by
  refine ⟨fun p hp => ?_, rfl, rfl, rfl⟩
  cases p
  case stackPointer => exact absurd List.mem_cons_self hp
  all_goals simp [SamePart]

theorem State.setStack_setSp_keptBut (s : State) (entries : ReturnStack) (b : Byte) :
    KeptBut [.stackPointer, .stackEntries] s ((s.setStack entries).setSp b) := by
  refine ⟨fun p hp => ?_, rfl, rfl, rfl⟩
  cases p
  case stackPointer | stackEntries => exact absurd (by decide) hp
  all_goals simp [SamePart]

/-! ## SYS (R100) -/

/-- Settles O1, by the value of SYS_POLICY. -/
theorem sysFaultsOrActsAsNop : Obligations.SysFaultsOrActsAsNop := by
  refine ⟨rfl, fun nnn hcls hret => decodes_of_encode rfl (by simp [WellFormed, hcls, hret]), fun nnn s => ⟨?_, ?_⟩⟩
  · exact exec_sys_fault
  · exact fun hpol => ⟨s.advance, exec_sys_nop hpol, rfl, s.advance_keptBut⟩

/-! ## RET (R101) -/

theorem exec_ret_of_pos {s : State} (h1 : 1 ≤ s.sp.toNat) (h16 : s.sp.toNat ≤ stackDepth) :
    exec .ret s = .next ((s.advance.setSp (s.sp - 1)).setPc (s.stackAt (BitVec.ofNat 4 (s.sp.toNat - 1)))) := by
  have hpop : s.advance.pop = .ok (s.stackAt (BitVec.ofNat 4 (s.sp.toNat - 1)), s.advance.setSp (s.sp - 1)) :=
    State.pop_eq_ok.mpr ⟨h1, h16, rfl, rfl⟩
  simp only [exec, execRet, hpop]

theorem exec_ret_of_empty {s : State} (h : s.sp.toNat = 0) :
    exec .ret s = .next (s.raiseAt .ret .outOfBoundsAccess none .stackUnderflow) := by
  have hpop : s.advance.pop = .error .stackUnderflow := State.pop_eq_error.mpr (.inl ⟨h, rfl⟩)
  simp only [exec, execRet, hpop]

/-- Settles O2: the pop of a stack in use, or its fault. -/
theorem retPopsTheReturnAddress : Obligations.RetPopsTheReturnAddress := by
  refine ⟨decodes_of_encode rfl rfl, fun s => ⟨fun h1 h16 => ?_, exec_ret_of_empty⟩⟩
  have hsp : (s.sp - 1).toNat = s.sp.toNat - 1 := BitVec.toNat_sub_of_le h1
  exact ⟨_, exec_ret_of_pos h1 h16, rfl, hsp, KeptBut.setPc (s.setSp_keptBut (s.sp - 1)) _⟩

/-! ## The jumps (R102, R108) -/

theorem exec_jp (nnn : Addr) (s : State) : exec (.jp nnn) s = .next (s.setPc (addrOf nnn)) := rfl

theorem exec_jpV0 (nnn : Addr) (s : State) :
    exec (.jpV0 nnn) s = .next (s.setPc (wide (s.reg 0x0#4) + addrOf nnn)) := rfl

/-- The sum of JP V0 stays below 65536, so it is exact (R108). -/
theorem toNat_wide_add_addrOf (b : Byte) (nnn : Addr) : (wide b + addrOf nnn).toNat = b.toNat + nnn.toNat := by
  have hb := b.isLt
  have hn := nnn.isLt
  rw [BitVec.toNat_add, toNat_wide, toNat_addrOf]
  omega

/-- Settles O3: a fetch at 0xFFF lacks its second byte. -/
theorem jpSetsThePc : Obligations.JpSetsThePc := by
  refine ⟨fun nnn => decodes_of_encode rfl rfl, fun nnn s => ?_⟩
  refine ⟨_, exec_jp nnn s, toNat_addrOf nnn, s.setPc_keptBut _, fun h => ?_⟩
  subst h
  exact State.fetch_eq_error.mpr ⟨le_rfl, rfl⟩

/-- Settles O7: the sum is exact, and a fetch at 0xFFF or above fails. -/
theorem jpV0AddsV0 : Obligations.JpV0AddsV0 := by
  refine ⟨fun nnn => decodes_of_encode rfl rfl, fun nnn s => ?_⟩
  have hpc := toNat_wide_add_addrOf (s.reg 0x0#4) nnn
  refine ⟨_, exec_jpV0 nnn s, hpc, s.setPc_keptBut _, fun h => ⟨_, State.fetch_eq_error.mpr ⟨?_, rfl⟩⟩⟩
  rw [State.setPc_pc, hpc]
  exact Nat.succ_le_succ h

/-! ## CALL (R103) -/

theorem exec_call_of_lt (nnn : Addr) {s : State} (h : s.sp.toNat < stackDepth) :
    exec (.call nnn) s =
      .next (((s.advance.setStack (s.stack.set s.sp.toNat (s.pc + 2) h)).setSp (s.sp + 1)).setPc (addrOf nnn)) := by
  have hpush : s.advance.push s.advance.pc =
      .ok ((s.advance.setStack (s.stack.set s.sp.toNat (s.pc + 2) h)).setSp (s.sp + 1)) :=
    State.push_eq_ok.mpr ⟨h, rfl⟩
  simp only [exec, execCall, hpush]

theorem exec_call_of_full (nnn : Addr) {s : State} (h : stackDepth ≤ s.sp.toNat) :
    exec (.call nnn) s = .next (s.raiseAt (.call nnn) .outOfBoundsAccess none .stackOverflow) := by
  have hpush : s.advance.push s.advance.pc = .error .stackOverflow := State.push_eq_error.mpr ⟨h, rfl⟩
  simp only [exec, execCall, hpush]

/-- Settles O4: the push below 16 entries, or its fault. -/
theorem callPushesTheReturnAddress : Obligations.CallPushesTheReturnAddress := by
  refine ⟨fun nnn => decodes_of_encode rfl rfl, fun nnn s => ⟨fun h => ?_, fun h => exec_call_of_full nnn h.ge⟩⟩
  have hsp : (s.sp + 1).toNat = s.sp.toNat + 1 := BitVec.toNat_add_of_lt (show s.sp.toNat + 1 < 2 ^ 8 by omega)
  have hix : (BitVec.ofNat 4 s.sp.toNat).toNat = s.sp.toNat := Nat.mod_eq_of_lt h
  have hentry := s.advance.setStack_set_stackAt s.sp.toNat h (s.pc + 2)
  refine ⟨_, exec_call_of_lt nnn h, toNat_addrOf nnn, hsp, ?_, fun j hj => ?_,
    KeptBut.setPc (s.setStack_setSp_keptBut _ (s.sp + 1)) _⟩
  · exact (hentry _).trans (if_pos hix)
  · exact (hentry j).trans (if_neg hj)

/-! ## The skips (R104 to R107) -/

/-- What a skip on `c` leaves, for any proposition `p` that `c` decides. -/
theorem skip_outcome {i : Instr} {s : State} {c : Bool} {p : Prop} [Decidable p]
    (hexec : exec i s = .next (s.advance.skipIf c)) (hc : c = true ↔ p) :
    ∃ t, exec i s = .next t ∧ t.pc = (if p then s.pc + 4 else s.pc + 2) ∧ KeptBut [] s t := by
  refine ⟨_, hexec, ?_, ?_⟩
  · simp only [State.skipIf_pc, State.advance_pc, hc, BitVec.add_assoc]
    rfl
  · cases c
    · exact s.advance_keptBut
    · exact s.advance_keptBut.setPc _

/-- Settles O5: both decide the equality of the register and the immediate. -/
theorem immediateSkips : Obligations.ImmediateSkips := by
  refine ⟨fun x kk => ⟨decodes_of_encode rfl rfl, decodes_of_encode rfl rfl⟩, fun x kk s => ⟨?_, ?_⟩⟩
  · exact skip_outcome rfl beq_iff_eq
  · exact skip_outcome rfl bne_iff_ne

/-- Settles O6: both decide the equality of the registers; a low nibble but 0 is a row of R78. -/
theorem registerSkips : Obligations.RegisterSkips := by
  refine ⟨fun x y => ⟨decodes_of_encode rfl rfl, decodes_of_encode rfl rfl⟩, fun x y n hn => ⟨?_, ?_⟩,
    fun x y s => ⟨?_, ?_⟩⟩
  · exact decode_eq_unsupported.mpr (.inl ⟨rfl, .inl (opOf_encRR ..), by rwa [nOf_encRR]⟩)
  · exact decode_eq_unsupported.mpr (.inl ⟨rfl, .inr (opOf_encRR ..), by rwa [nOf_encRR]⟩)
  · exact skip_outcome rfl beq_iff_eq
  · exact skip_outcome rfl bne_iff_ne

end Sys2Proof.Machine
end

section
/-! SUPPORT and the settled statements on the register loads, the ALU and the random byte (spec/41_alu.md R120 to
R132). -/

namespace Sys2Proof.Machine

/-! ## Frames of the register updates -/

/-- A frame that leaves the registers open is kept by a write to a register. -/
theorem KeptBut.setReg {changed : List Part} {s t : State} (h : KeptBut changed s t) (hregs : .registers ∈ changed)
    (x : RegIx) (b : Byte) : KeptBut changed s (t.setReg x b) := by
  obtain ⟨hparts, hrest⟩ := h
  refine ⟨fun p hp => ?_, hrest⟩
  have hsame := hparts p hp
  cases p
  case registers => exact absurd hregs hp
  all_goals exact hsame

/-- A frame that leaves the draws open is kept by a draw. -/
theorem KeptBut.countDraw {changed : List Part} {s t : State} (h : KeptBut changed s t) (hdraws : .randomDraws ∈ changed) :
    KeptBut changed s t.countDraw := by
  obtain ⟨hparts, hrest⟩ := h
  refine ⟨fun p hp => ?_, hrest⟩
  have hsame := hparts p hp
  cases p
  case randomDraws => exact absurd hdraws hp
  all_goals exact hsame

theorem State.advance_setReg_keptBut {changed : List Part} (hregs : .registers ∈ changed) (s : State) (x : RegIx)
    (b : Byte) : KeptBut changed s (s.advance.setReg x b) :=
  ((KeptBut.refl changed s).setPc (s.pc + 2)).setReg hregs x b

theorem State.advance_setReg_regsKeptBut (s : State) (x : RegIx) (b : Byte) :
    RegsKeptBut [x] s (s.advance.setReg x b) := by
  intro j hj
  rw [State.setReg_reg, if_neg (List.ne_of_not_mem_cons hj), State.advance_reg]

theorem State.advance_setRegFlag_keptBut (s : State) (x : RegIx) (r : Byte) (f : Bool) :
    KeptBut [.registers] s (s.advance.setRegFlag x r f) :=
  (s.advance_setReg_keptBut List.mem_cons_self x r).setReg List.mem_cons_self regF (flagByte f)

theorem State.advance_setRegLogic_keptBut (s : State) (x : RegIx) (r : Byte) :
    KeptBut [.registers] s (s.advance.setRegLogic x r) := by
  have hset : KeptBut [.registers] s (s.advance.setReg x r) := s.advance_setReg_keptBut List.mem_cons_self x r
  unfold State.setRegLogic
  split
  · exact hset.setReg List.mem_cons_self regF 0x00#8
  · exact hset

/-! ## Instructions that write one register (R121 to R123) -/

/-- What an instruction leaves that does no more than write `b` to V[x]. -/
theorem setReg_outcome {i : Instr} {s : State} {x : RegIx} {b : Byte} (hexec : exec i s = .next (s.advance.setReg x b)) :
    ∃ t, exec i s = .next t ∧ t.pc = s.pc + 2 ∧ t.reg x = b ∧ RegsKeptBut [x] s t ∧ KeptBut [.registers] s t :=
  ⟨_, hexec, rfl, State.setReg_reg_same _ x b, s.advance_setReg_regsKeptBut x b,
    s.advance_setReg_keptBut List.mem_cons_self x b⟩

/-- Settles O8: one register is written. -/
theorem loadImmediate : Obligations.LoadImmediate :=
  ⟨fun _ _ => decodes_of_encode rfl rfl, fun _ _ _ => setReg_outcome rfl⟩

/-- Settles O9: the sum of bytes is the sum modulo 256. -/
theorem addImmediate : Obligations.AddImmediate := by
  refine ⟨fun x kk => decodes_of_encode rfl rfl, fun x kk s => ?_⟩
  obtain ⟨t, hexec, hpc, hreg, hkept⟩ := setReg_outcome (i := .addImm x kk) (s := s) rfl
  exact ⟨t, hexec, hpc, hreg ▸ BitVec.toNat_add .., hkept⟩

/-- Settles O10: one register is written. -/
theorem loadRegister : Obligations.LoadRegister :=
  ⟨fun _ _ => decodes_of_encode rfl rfl, fun _ _ _ => setReg_outcome rfl⟩

/-! ## OR, AND and XOR (R124 to R126) -/

theorem setRegLogic_outcome (x : RegIx) (r : Byte) (s : State) : LogicOutcome x r s (s.advance.setRegLogic x r) :=
  ⟨State.setRegLogic_pc _ x r, fun j => s.advance.setRegLogic_reg x j r, s.advance_setRegLogic_keptBut x r⟩

/-- Settles O11: the three write their result in the same way. -/
theorem logicOperations : Obligations.LogicOperations := by
  refine ⟨rfl, fun x y => ⟨decodes_of_encode rfl rfl, decodes_of_encode rfl rfl, decodes_of_encode rfl rfl⟩,
    fun x y s => ⟨?_, ?_, ?_⟩⟩
  all_goals exact ⟨_, rfl, setRegLogic_outcome x _ s⟩

/-! ## Instructions that write a flag (R120, R127 to R131) -/

/-- The flag is written last, so it stands in VF even when VF is the destination (R120). -/
theorem setRegFlag_outcome {r : Byte} {f : Bool} {result flag : Nat} (hr : r.toNat = result)
    (hf : (flagByte f).toNat = flag) (x : RegIx) (s : State) :
    FlagOutcome x result flag s (s.advance.setRegFlag x r f) := by
  refine ⟨rfl, fun hx => ?_, ?_, fun j hj => ?_, s.advance_setRegFlag_keptBut x r f⟩
  · rw [State.setRegFlag_reg, if_neg hx, if_pos rfl, hr]
  · rw [State.setRegFlag_reg, if_pos rfl, hf]
  · obtain ⟨hjx, hjF⟩ : j ≠ x ∧ j ≠ regF := by simpa using hj
    rw [State.setRegFlag_reg, if_neg hjF, if_neg hjx, State.advance_reg]

theorem toNat_carryOut (a b : Byte) :
    (flagByte (carryOut a b)).toNat = if 255 < a.toNat + b.toNat then 1 else 0 := by
  simp only [flagByte_toNat, carryOut, decide_eq_true_eq]

theorem toNat_notBorrow (a b : Byte) : (flagByte (notBorrow a b)).toNat = if b.toNat ≤ a.toNat then 1 else 0 := by
  simp only [flagByte_toNat, notBorrow, decide_eq_true_eq]

theorem toNat_byte_sub (a b : Byte) : (a - b).toNat = (256 + a.toNat - b.toNat) % 256 := by
  have hb := b.isLt
  rw [BitVec.toNat_sub]
  omega

theorem toNat_shiftRight_one (b : Byte) : (b >>> 1).toNat = b.toNat / 2 := by
  rw [BitVec.toNat_ushiftRight, Nat.shiftRight_one]

theorem toNat_shiftLeft_one (b : Byte) : (b <<< 1).toNat = b.toNat * 2 % 256 := by
  rw [BitVec.toNat_shiftLeft, Nat.shiftLeft_eq, pow_one]

/-- Settles O12: the carry is that of the exact sum. -/
theorem addWithCarry : Obligations.AddWithCarry :=
  ⟨fun _ _ => decodes_of_encode rfl rfl, fun x _ s =>
    ⟨_, rfl, setRegFlag_outcome (BitVec.toNat_add ..) (toNat_carryOut ..) x s⟩⟩

/-- Settles O13: SUBN is SUB with its operands exchanged. -/
theorem subtractWithNotBorrow : Obligations.SubtractWithNotBorrow := by
  refine ⟨fun x y => ⟨decodes_of_encode rfl rfl, decodes_of_encode rfl rfl⟩, fun x y s => ⟨?_, ?_⟩⟩
  all_goals exact ⟨_, rfl, setRegFlag_outcome (toNat_byte_sub ..) (toNat_notBorrow ..) x s⟩

/-- The shifts read the register that SHIFT_SOURCE names (R129, R131). -/
theorem State.shiftOperand_eq (s : State) (x y : RegIx) :
    s.shiftOperand x y = s.reg (if s.cfg.shiftSource = .vx then x else y) := by
  cases h : s.cfg.shiftSource
  all_goals simp only [State.shiftOperand, h, reduceCtorEq, if_true, if_false]

/-- Settles O14: the operand is the old value of the source, and the flag the bit that leaves it. -/
theorem shiftsByOne : Obligations.ShiftsByOne := by
  refine ⟨fun x y => ⟨decodes_of_encode rfl rfl, decodes_of_encode rfl rfl⟩, rfl, fun x y src s hsrc => ?_⟩
  rw [hsrc, ← s.shiftOperand_eq]
  exact ⟨⟨_, rfl, setRegFlag_outcome (toNat_shiftRight_one _) (toNat_shiftedOutLow _) x s⟩,
    ⟨_, rfl, setRegFlag_outcome (toNat_shiftLeft_one _) (toNat_shiftedOutHigh _) x s⟩⟩

/-! ## The random byte (R132) -/

theorem exec_rnd (x : RegIx) (kk : Byte) (s : State) :
    exec (.rnd x kk) s = .next (s.advance.setReg x (s.nextRandom &&& kk)).countDraw := rfl

/-- Settles O15: the mask clears every bit outside KK, whatever byte is drawn. -/
theorem randomByteIsMasked : Obligations.RandomByteIsMasked := by
  refine ⟨fun x kk => decodes_of_encode rfl rfl, fun x kk s => ?_⟩
  have hreg : (s.advance.setReg x (s.nextRandom &&& kk)).countDraw.reg x = s.nextRandom &&& kk :=
    State.setReg_reg_same _ x _
  refine ⟨_, exec_rnd x kk s, rfl, hreg, rfl, fun b hb => ?_, s.advance_setReg_regsKeptBut x _,
    (s.advance_setReg_keptBut (by decide) x _).countDraw (by decide)⟩
  rw [hreg, BitVec.getLsbD_and, hb, Bool.and_false]

end Sys2Proof.Machine
end

section
/-! SUPPORT and the settled statements on the display: CLS and DRW (spec/42_display.md R140 to R146). -/

namespace Sys2Proof.Machine

/-! ## CLS (R140) -/

/-- A frame that leaves the screen open is kept by a new grid. -/
theorem KeptBut.setFb {changed : List Part} {s t : State} (h : KeptBut changed s t) (hscreen : .screen ∈ changed)
    (g : Framebuffer) : KeptBut changed s (t.setFb g) := by
  obtain ⟨hparts, hrest⟩ := h
  refine ⟨fun p hp => ?_, hrest⟩
  have hsame := hparts p hp
  cases p
  case screen => exact absurd hscreen hp
  all_goals exact hsame

theorem State.advance_setFb_keptBut {changed : List Part} (hscreen : .screen ∈ changed) (s : State) (g : Framebuffer) :
    KeptBut changed s (s.advance.setFb g) :=
  ((KeptBut.refl changed s).setPc (s.pc + 2)).setFb hscreen g

theorem exec_cls (s : State) : exec .cls s = .next (s.advance.setFb Framebuffer.clear) := rfl

/-- Settles O16: the new grid is the clear one. -/
theorem clsTurnsEveryPixelOff : Obligations.ClsTurnsEveryPixelOff :=
  ⟨decodes_of_encode rfl rfl, fun s =>
    ⟨_, exec_cls s, rfl, Framebuffer.pixel_clear, s.advance_setFb_keptBut List.mem_cons_self _⟩⟩

/-! ## What DRW answers (R142, R145) -/

/-- What draw_sprite answers for DRW VX, VY, N: the coordinates are those of VX and VY, the sprite the N bytes at I. -/
def State.drawnSprite (s : State) (x y : RegIx) (n : Nibble) : Framebuffer × Bool :=
  drawSprite s.fb (s.reg x).toNat (s.reg y).toNat (s.mem.readBytes s.index.toNat n.toNat)

/-- The state a DRW leaves whose bytes all lie in memory. -/
def State.drawn (s : State) (x y : RegIx) (n : Nibble) : State :=
  (s.advance.setFb (s.drawnSprite x y n).1).setReg regF (flagByte (s.drawnSprite x y n).2)

theorem exec_drw_of_fits (x y : RegIx) {n : Nibble} {s : State}
    (hfit : n.toNat = 0 ∨ s.index.toNat + n.toNat ≤ memSize) :
    exec (.drw x y n) s = .next (s.drawn x y n) := by
  simp only [exec, execDrw, rangeFault_eq_none.mpr hfit, State.drawn, State.drawnSprite]

theorem exec_drw_of_overrun (x y : RegIx) {n : Nibble} {s : State} (hn : n.toNat ≠ 0)
    (hover : memSize < s.index.toNat + n.toNat) :
    exec (.drw x y n) s =
      .next (s.raiseAt (.drw x y n) .outOfBoundsAccess (some (max s.index.toNat memSize)) .read) := by
  simp only [exec, execDrw, rangeFault_eq_some.mpr ⟨Nat.pos_of_ne_zero hn, hover, rfl⟩]

/-! ## What a drawn sprite leaves in VF and what it keeps (R142) -/

theorem flagByte_eq_one {b : Bool} : flagByte b = 1#8 ↔ b = true := by cases b <;> simp [flagByte]

theorem State.drawn_regF (s : State) (x y : RegIx) (n : Nibble) :
    (s.drawn x y n).reg regF = flagByte (s.drawnSprite x y n).2 :=
  State.setReg_reg_same ..

theorem State.drawn_regsKeptBut (s : State) (x y : RegIx) (n : Nibble) : RegsKeptBut [regF] s (s.drawn x y n) := by
  intro j hj
  rw [State.drawn, State.setReg_reg, if_neg (List.ne_of_not_mem_cons hj), State.setFb_reg, State.advance_reg]

theorem State.drawn_keptBut (s : State) (x y : RegIx) (n : Nibble) : KeptBut [.registers, .screen] s (s.drawn x y n) :=
  (s.advance_setFb_keptBut (by decide) _).setReg List.mem_cons_self regF _

/-! ## What a drawn sprite leaves on the screen (R141, R143) -/

/-- The screen column of column `c` of a sprite drawn from VX. -/
def State.drawX (s : State) (x : RegIx) (c : Nat) : Fin 64 := wrapX ((s.reg x).toNat + c)

/-- The screen row of row `r` of a sprite drawn from VY. -/
def State.drawY (s : State) (y : RegIx) (r : Nat) : Fin 32 := wrapY ((s.reg y).toNat + r)

/-- The bit in row `r` and column `c` of the sprite at I; column 0 is bit 7. -/
def State.spriteBit (s : State) (r c : Nat) : Bool := (s.mem.read (s.index.toNat + r)).getLsbD (7 - c)

theorem State.drawn_pixel_covered (s : State) (x y : RegIx) {n : Nibble} {r c : Nat} (hr : r < n.toNat) (hc : c < 8) :
    (s.drawn x y n).pixel (s.drawX x c) (s.drawY y r) =
      (s.pixel (s.drawX x c) (s.drawY y r) ^^ s.spriteBit r c) := by
  have hlen := s.mem.length_readBytes s.index.toNat n.toNat
  refine (drawSprite_hit s.fb (s.reg x).toNat (s.reg y).toNat _ r c (by omega) (by omega) hc).trans ?_
  rw [Memory.getElem_readBytes]
  rfl

theorem State.drawn_pixel_uncovered (s : State) (x y : RegIx) {n : Nibble} {px : Fin 64} {py : Fin 32}
    (h : ∀ r c : Nat, r < n.toNat → c < 8 → ¬ (px = s.drawX x c ∧ py = s.drawY y r)) :
    (s.drawn x y n).pixel px py = s.pixel px py := by
  have hlen := s.mem.length_readBytes s.index.toNat n.toNat
  exact drawSprite_miss s.fb _ _ _ px py fun r c hr hc => h r c (by omega) hc

/-- VF reports that some 1 bit of the sprite met a pixel that was on (R144). -/
theorem State.drawn_regF_eq_one (s : State) (x y : RegIx) (n : Nibble) :
    (s.drawn x y n).reg regF = 1#8 ↔ ∃ r c : Nat, r < n.toNat ∧ c < 8 ∧ s.spriteBit r c = true ∧
      s.pixel (s.drawX x c) (s.drawY y r) = true := by
  have hlen := s.mem.length_readBytes s.index.toNat n.toNat
  rw [State.drawn_regF, flagByte_eq_one, State.drawnSprite, drawSprite_collision _ _ _ _ (by omega)]
  simp only [Memory.getElem_readBytes, hlen, exists_prop]
  rfl

/-- Settles O17: a DRW that fits draws the sprite; one that does not raises its fault. -/
theorem drwXorsTheSprite : Obligations.DrwXorsTheSprite := by
  refine ⟨fun x y n => decodes_of_encode rfl rfl, fun x y n s => ⟨fun hfit => ?_, exec_drw_of_overrun x y⟩⟩
  refine ⟨_, exec_drw_of_fits x y hfit, rfl, fun r c => s.drawn_pixel_covered x y,
    fun px py => s.drawn_pixel_uncovered x y, (s.drawn_regF_eq_one x y n).mpr, fun hnone => ?_,
    s.drawn_regsKeptBut x y n, s.drawn_keptBut x y n⟩
  have hne : (s.drawn x y n).reg regF ≠ 1#8 := fun h => hnone ((s.drawn_regF_eq_one x y n).mp h)
  rw [State.drawn_regF] at hne ⊢
  exact (flagByte_zero_or_one _).resolve_right hne

/-! ## Drawing twice (R146) -/

section Twice

variable {s : State} {x y : RegIx} {n : Nibble}

theorem State.drawn_drawX (hx : (s.drawn x y n).reg x = s.reg x) (c : Nat) : (s.drawn x y n).drawX x c = s.drawX x c := by
  rw [State.drawX, hx, ← State.drawX]

theorem State.drawn_drawY (hy : (s.drawn x y n).reg y = s.reg y) (r : Nat) : (s.drawn x y n).drawY y r = s.drawY y r := by
  rw [State.drawY, hy, ← State.drawY]

theorem State.drawn_spriteBit (r c : Nat) : (s.drawn x y n).spriteBit r c = s.spriteBit r c := rfl

/-- A pixel that a sprite changes lies under it. -/
theorem State.covered_of_drawn_pixel_ne {px : Fin 64} {py : Fin 32} (h : (s.drawn x y n).pixel px py ≠ s.pixel px py) :
    ∃ r c : Nat, r < n.toNat ∧ c < 8 ∧ px = s.drawX x c ∧ py = s.drawY y r := by
  by_contra hnone
  exact h (s.drawn_pixel_uncovered x y fun r c hr hc hp => hnone ⟨r, c, hr, hc, hp⟩)

/-- A covered pixel toggles twice by the same bit. -/
theorem State.drawn_drawn_pixel (hx : (s.drawn x y n).reg x = s.reg x) (hy : (s.drawn x y n).reg y = s.reg y)
    (px : Fin 64) (py : Fin 32) : ((s.drawn x y n).drawn x y n).pixel px py = s.pixel px py := by
  by_cases hcov : ∃ r c : Nat, r < n.toNat ∧ c < 8 ∧ px = s.drawX x c ∧ py = s.drawY y r
  · obtain ⟨r, c, hr, hc, rfl, rfl⟩ := hcov
    have hsecond := (s.drawn x y n).drawn_pixel_covered x y hr hc
    rwa [State.drawn_drawX hx, State.drawn_drawY hy, State.drawn_spriteBit, s.drawn_pixel_covered x y hr hc,
      Bool.xor_assoc, Bool.xor_self, Bool.xor_false] at hsecond
  · have hfirst : ∀ r c : Nat, r < n.toNat → c < 8 → ¬ (px = s.drawX x c ∧ py = s.drawY y r) :=
      fun r c hr hc hp => hcov ⟨r, c, hr, hc, hp⟩
    rw [State.drawn_pixel_uncovered, s.drawn_pixel_uncovered x y hfirst]
    simpa only [State.drawn_drawX hx, State.drawn_drawY hy] using hfirst

/-- The second sprite meets a pixel that is on exactly where the first one turned it on. -/
theorem State.drawn_drawn_regF_eq_one (hx : (s.drawn x y n).reg x = s.reg x) (hy : (s.drawn x y n).reg y = s.reg y) :
    ((s.drawn x y n).drawn x y n).reg regF = 1#8 ↔
      ∃ (px : Fin 64) (py : Fin 32), s.pixel px py = false ∧ (s.drawn x y n).pixel px py = true := by
  simp only [State.drawn_regF_eq_one (s.drawn x y n), State.drawn_drawX hx, State.drawn_drawY hy, State.drawn_spriteBit]
  constructor
  · rintro ⟨r, c, hr, hc, hbit, hon⟩
    refine ⟨_, _, ?_, hon⟩
    rwa [s.drawn_pixel_covered x y hr hc, hbit, Bool.xor_true, Bool.not_eq_true'] at hon
  · rintro ⟨px, py, hoff, hon⟩
    have hne : (s.drawn x y n).pixel px py ≠ s.pixel px py := by simp [hoff, hon]
    obtain ⟨r, c, hr, hc, rfl, rfl⟩ := State.covered_of_drawn_pixel_ne hne
    refine ⟨r, c, hr, hc, ?_, hon⟩
    rwa [s.drawn_pixel_covered x y hr hc, hoff, Bool.false_xor] at hon

end Twice

/-- Settles O18: both draws fit, and the second undoes the first. -/
theorem drawingTwiceRestoresTheScreen : Obligations.DrawingTwiceRestoresTheScreen := by
  intro x y n s hfit
  refine ⟨_, exec_drw_of_fits x y hfit, fun hx hy => ?_⟩
  exact ⟨_, exec_drw_of_fits x y hfit, State.drawn_drawn_pixel hx hy, State.drawn_drawn_regF_eq_one hx hy⟩

end Sys2Proof.Machine
end

section
/-! SUPPORT and the settled statements on the keypad and the timers: the key skips, the key-wait, DT and ST
(spec/43_keypad_timers.md R160 to R166). -/

namespace Sys2Proof.Machine

/-! ## Frames of the timer writes and of a wait that begins -/

theorem State.advance_setDt_keptBut (s : State) (b : Byte) : KeptBut [.delayTimer] s (s.advance.setDt b) := by
  refine ⟨fun p hp => ?_, rfl, rfl, rfl⟩
  cases p
  case delayTimer => exact absurd List.mem_cons_self hp
  all_goals simp [SamePart]

theorem State.advance_setSt_keptBut (s : State) (b : Byte) : KeptBut [.soundTimer] s (s.advance.setSt b) := by
  refine ⟨fun p hp => ?_, rfl, rfl, rfl⟩
  cases p
  case soundTimer => exact absurd List.mem_cons_self hp
  all_goals simp [SamePart]

theorem State.advance_setWait_keptBut (s : State) (w : Option RegIx) :
    KeptBut [.waitRegister] s (s.advance.setWait w) := by
  refine ⟨fun p hp => ?_, rfl, rfl, rfl⟩
  cases p
  case waitRegister => exact absurd List.mem_cons_self hp
  all_goals simp [SamePart]

/-! ## The key-wait (R163) -/

theorem State.pickKey_of_lowest {s : State} (h : s.cfg.keywaitPick = .lowest) : s.pickKey = s.lowestKey := by
  unfold State.pickKey
  cases s.lowestKey with
  | none => rfl
  | some low => simp only [h]

/-- A free choice that is a pressed key is the pick. -/
theorem State.pickKey_of_chosen {s : State} (h : s.cfg.keywaitPick = .chosen)
    (hdown : s.keyDown (Config.keywaitChoice s.key) = true) : s.pickKey = some (Config.keywaitChoice s.key) := by
  unfold State.pickKey
  cases hl : s.lowestKey with
  | none => simp [State.lowestKey_eq_none.mp hl] at hdown
  | some low => simp only [h, hdown, if_true]

theorem exec_ldXK_of_no_key (x : RegIx) {s : State} (h : s.pickKey = none) :
    exec (.ldXK x) s = .next (s.advance.setWait (some x)) := by
  simp only [exec, execLdXK, h]

theorem exec_ldXK_of_key (x : RegIx) {s : State} {k : Nibble} (h : s.pickKey = some k) :
    exec (.ldXK x) s = .next (s.advance.setReg x (k.setWidth 8)) := by
  simp only [exec, execLdXK, h]

/-- Settles O21, by whether KEYWAIT_PICK has a key to pick. -/
theorem keyWaitStartsOrCompletes : Obligations.KeyWaitStartsOrCompletes := by
  refine ⟨fun x => decodes_of_encode rfl rfl, rfl, fun x s => ⟨fun hnone => ?_, fun ⟨j, hj⟩ => ?_⟩⟩
  · exact ⟨_, exec_ldXK_of_no_key x (State.pickKey_eq_none.mpr hnone), rfl, rfl, rfl, s.advance_setWait_keptBut _⟩
  · obtain ⟨k, hk⟩ : ∃ k, s.pickKey = some k :=
      Option.ne_none_iff_exists'.mp fun h => by simp [State.pickKey_eq_none.mp h] at hj
    obtain ⟨t, hexec, hpc, hreg, hkept⟩ := setReg_outcome (exec_ldXK_of_key x hk)
    refine ⟨t, k, hexec, hpc, State.pickKey_pressed hk, ?_, fun hpick i hi => ?_, fun hpick hdown => ?_, hkept⟩
    · rw [hreg, BitVec.toNat_setWidth_of_le (by decide)]
    · obtain ⟨_, hbelow⟩ := State.lowestKey_spec ((State.pickKey_of_lowest hpick).symm.trans hk)
      by_contra hlt
      simp [hbelow i (Nat.lt_of_not_le hlt)] at hi
    · exact Option.some.inj (hk.symm.trans (State.pickKey_of_chosen hpick hdown))

/-! ## The key skips (R160, R161, R166) -/

theorem exec_skp_of_le (x : RegIx) {s : State} (h : (s.reg x).toNat ≤ 0xF) :
    exec (.skp x) s = .next (s.advance.skipIf (s.keyDown ((s.reg x).setWidth 4))) := by
  simp only [exec, execSkp, keyIndex_eq_some.mpr ⟨h, rfl⟩]

theorem exec_sknp_of_le (x : RegIx) {s : State} (h : (s.reg x).toNat ≤ 0xF) :
    exec (.sknp x) s = .next (s.advance.skipIf (!s.keyDown ((s.reg x).setWidth 4))) := by
  simp only [exec, execSknp, keyIndex_eq_some.mpr ⟨h, rfl⟩]

theorem exec_skp_of_gt (x : RegIx) {s : State} (h : 0xF < (s.reg x).toNat) :
    exec (.skp x) s = .next (s.raiseAt (.skp x) .outOfBoundsAccess (some (s.reg x).toNat) .keyIndex) := by
  simp only [exec, execSkp, keyIndex_eq_none.mpr h]

theorem exec_sknp_of_gt (x : RegIx) {s : State} (h : 0xF < (s.reg x).toNat) :
    exec (.sknp x) s = .next (s.raiseAt (.sknp x) .outOfBoundsAccess (some (s.reg x).toNat) .keyIndex) := by
  simp only [exec, execSknp, keyIndex_eq_none.mpr h]

/-- Settles O19: SKNP is a skip on the negated key, with the branches of its pc exchanged. -/
theorem keySkips : Obligations.KeySkips := by
  refine ⟨fun x => ⟨decodes_of_encode rfl rfl, decodes_of_encode rfl rfl⟩, fun x s => ⟨fun h => ⟨?_, ?_⟩, fun h => ?_⟩⟩
  · exact skip_outcome (exec_skp_of_le x h) Iff.rfl
  · simpa only [ite_not] using skip_outcome (exec_sknp_of_le x h) Bool.not_iff_not
  · exact ⟨exec_skp_of_gt x h, exec_sknp_of_gt x h⟩

/-! ## The timers (R162, R164, R165) -/

/-- Settles O20: one register is written. -/
theorem delayTimerIsRead : Obligations.DelayTimerIsRead :=
  ⟨fun _ => decodes_of_encode rfl rfl, fun _ _ => setReg_outcome rfl⟩

theorem exec_ldDtX (x : RegIx) (s : State) : exec (.ldDtX x) s = .next (s.advance.setDt (s.reg x)) := rfl

theorem exec_ldStX (x : RegIx) (s : State) : exec (.ldStX x) s = .next (s.advance.setSt (s.reg x)) := rfl

/-- Settles O22: each writes one timer, and the sound follows from ST. -/
theorem timersAreWritten : Obligations.TimersAreWritten := by
  refine ⟨fun x => ⟨decodes_of_encode rfl rfl, decodes_of_encode rfl rfl⟩, fun x s => ⟨?_, ?_⟩⟩
  · exact ⟨_, exec_ldDtX x s, rfl, rfl, s.advance_setDt_keptBut _⟩
  · exact ⟨_, exec_ldStX x s, rfl, rfl, State.soundActive_eq _, s.advance_setSt_keptBut _⟩

end Sys2Proof.Machine
end

section
/-! SUPPORT and the settled statements on the index register and memory: LD I, ADD I, LD F, BCD, register dump and load
(spec/44_index_memory.md R180 to R187). -/

namespace Sys2Proof.Machine

/-! ## Frames of the writes to I, to memory and to a run of registers -/

/-- No frame speaks of pc, so the advance keeps every one. -/
theorem KeptBut.advance (changed : List Part) (s : State) : KeptBut changed s s.advance :=
  (KeptBut.refl changed s).setPc (s.pc + 2)

/-- A frame that leaves I open is kept by a write to I. -/
theorem KeptBut.setIndex {changed : List Part} {s t : State} (h : KeptBut changed s t)
    (hindex : .indexRegister ∈ changed) (w : Word) : KeptBut changed s (t.setIndex w) := by
  obtain ⟨hparts, hrest⟩ := h
  refine ⟨fun p hp => ?_, hrest⟩
  have hsame := hparts p hp
  cases p
  case indexRegister => exact absurd hindex hp
  all_goals exact hsame

/-- A frame that leaves I open is kept by LOADSTORE_INCREMENTS_I, under both its values. -/
theorem KeptBut.bumpIndex {changed : List Part} {s t : State} (h : KeptBut changed s t)
    (hindex : .indexRegister ∈ changed) (x : RegIx) : KeptBut changed s (t.bumpIndex x) := by
  unfold State.bumpIndex
  split
  · exact h.setIndex hindex _
  · exact h

/-- A frame that leaves memory open is kept by a store. -/
theorem KeptBut.store {changed : List Part} {s t : State} (h : KeptBut changed s t) (hmem : .memory ∈ changed)
    (a : Nat) (xs : List Byte) : KeptBut changed s (t.store a xs) := by
  obtain ⟨hparts, hrest⟩ := h
  refine ⟨fun p hp => ?_, hrest⟩
  have hsame := hparts p hp
  cases p
  case memory => exact absurd hmem hp
  all_goals exact hsame

/-- A frame that leaves the registers open is kept by a run of register writes. -/
theorem KeptBut.setRegsFrom {changed : List Part} {s t : State} (h : KeptBut changed s t)
    (hregs : .registers ∈ changed) (j : Nat) (bs : List Byte) : KeptBut changed s (t.setRegsFrom j bs) := by
  induction bs generalizing t j with
  | nil => exact h
  | cons b bs ih => exact ih (h.setReg hregs _ b) (j + 1)

/-! ## Instructions that write I (R180 to R182) -/

/-- What an instruction leaves that does no more than write I. -/
theorem setIndex_outcome {i : Instr} {s : State} {w : Word} {n : Nat} (hexec : exec i s = .next (s.advance.setIndex w))
    (hw : w.toNat = n) :
    ∃ t, exec i s = .next t ∧ t.pc = s.pc + 2 ∧ t.index.toNat = n ∧ KeptBut [.indexRegister] s t :=
  ⟨_, hexec, rfl, hw, (KeptBut.advance _ s).setIndex List.mem_cons_self w⟩

theorem toNat_add_wide (w : Word) (b : Byte) : (w + wide b).toNat = (w.toNat + b.toNat) % 65536 := by
  rw [BitVec.toNat_add, toNat_wide]

/-- Settles O23: each writes I alone, the sum of words being the sum modulo 65536. -/
theorem indexLoadAndAdd : Obligations.IndexLoadAndAdd :=
  ⟨fun _ => decodes_of_encode rfl rfl, fun _ => decodes_of_encode rfl rfl,
    fun nnn _ => setIndex_outcome rfl (toNat_addrOf nnn),
    fun x s => setIndex_outcome rfl (toNat_add_wide s.index (s.reg x))⟩

/-- Settles O24: I is written alone, and 5 * 255 fits in a word. -/
theorem glyphAddressIsLoaded : Obligations.GlyphAddress :=
  ⟨fun _ => decodes_of_encode rfl rfl, fun x s => setIndex_outcome rfl (toNat_glyphAddress (s.reg x))⟩

/-! ## LD B, VX (R184) -/

/-- FX33 that runs past memory faults at its lowest address out of bounds (R187). -/
theorem exec_ldB_of_overrun (x : RegIx) (s : State) (hover : memSize < s.index.toNat + 3) :
    exec (.ldB x) s = .next (s.raiseAt (.ldB x) .outOfBoundsAccess (some (max s.index.toNat memSize)) .write) := by
  simp only [exec, execLdB, rangeFault_eq_some.mpr ⟨Nat.succ_pos 2, hover, rfl⟩]

/-- Settles O25, by whether the three digits fit. -/
theorem bcdDigitsAreStored : Obligations.BcdDigitsAreStored := by
  refine ⟨fun x => decodes_of_encode rfl rfl, fun x s => ⟨fun hfit => ?_, fun hover => ?_⟩⟩
  · have hdigit : ∀ j < 3, (s.advance.store s.index.toNat (bcdDigits (s.reg x))).memRead (s.index.toNat + j) =
        (bcdDigits (s.reg x))[j]? := fun j hj => s.advance.memRead_store_inside hj hfit
    exact ⟨_, exec_ldB_of_fits x s hfit, rfl, hdigit 0 (by decide), hdigit 1 (by decide), hdigit 2 (by decide),
      s.advance.store_bytesKeptOutside _ (bcdDigits (s.reg x)), (KeptBut.advance _ s).store List.mem_cons_self _ _⟩
  · exact exec_ldB_of_overrun x s (Nat.lt_succ_of_le hover)

/-! ## I after a register dump or load (R185, R186) -/

theorem State.toNat_bumpIndex_index (s : State) (x : RegIx) :
    (s.bumpIndex x).index.toNat =
      if s.cfg.loadstoreIncrementsI then (s.index.toNat + x.toNat + 1) % 65536 else s.index.toNat := by
  rw [State.bumpIndex_index]
  split
  · rw [BitVec.toNat_add, BitVec.toNat_add, BitVec.toNat_setWidth_of_le (by decide)]
    simp
  · rfl

/-! ## LD [I], VX (R185) -/

/-- V0 to VX hold at each place the register of that number. -/
theorem State.getElem?_regsUpTo (s : State) {x j : RegIx} (hj : j.toNat ≤ x.toNat) :
    (s.regsUpTo x)[j.toNat]? = some (s.reg j) := by
  have hlt : j.toNat < (s.regsUpTo x).length := s.length_regsUpTo x ▸ Nat.lt_succ_of_le hj
  rw [List.getElem?_eq_getElem hlt, s.getElem_regsUpTo x j hlt]

/-- FX55 that runs past memory faults at its lowest address out of bounds (R187). -/
theorem exec_ldMemX_of_overrun (x : RegIx) (s : State) (hover : memSize < s.index.toNat + (x.toNat + 1)) :
    exec (.ldMemX x) s =
      .next (s.raiseAt (.ldMemX x) .outOfBoundsAccess (some (max s.index.toNat memSize)) .write) := by
  simp only [exec, execLdMemX, rangeFault_eq_some.mpr ⟨Nat.succ_pos x.toNat, hover, rfl⟩]

/-- Settles O26, by whether V0 to VX fit. -/
theorem registerDump : Obligations.RegisterDump := by
  refine ⟨fun x => decodes_of_encode rfl rfl, rfl, fun x s => ⟨fun hfit => ?_, fun hover => ?_⟩⟩
  · have hlen : (s.regsUpTo x).length = x.toNat + 1 := s.length_regsUpTo x
    have hroom : s.index.toNat + (s.regsUpTo x).length ≤ memSize := hlen ▸ hfit
    refine ⟨_, exec_ldMemX_of_fits x s hfit, by simp, fun j hj => ?_, State.toNat_bumpIndex_index _ x, ?_,
      ((KeptBut.advance _ s).store (by decide) _ _).bumpIndex (by decide) x⟩
    · rw [State.bumpIndex_memRead, s.advance.memRead_store_inside (by omega) hroom, s.getElem?_regsUpTo hj]
    · intro b hb
      rw [State.bumpIndex_memRead, s.advance.store_bytesKeptOutside _ _ b (hlen ▸ hb), State.advance_memRead]
  · exact exec_ldMemX_of_overrun x s (Nat.lt_succ_of_le hover)

/-! ## LD VX, [I] (R186) -/

/-- The state an FX65 leaves whose bytes all lie in memory. -/
def State.loaded (s : State) (x : RegIx) : State :=
  (s.advance.setRegsFrom 0 (s.mem.readBytes s.index.toNat (x.toNat + 1))).bumpIndex x

theorem State.loaded_reg (s : State) (x j : RegIx) :
    (s.loaded x).reg j = if j.toNat ≤ x.toNat then s.mem.read (s.index.toNat + j.toNat) else s.reg j := by
  have hlen := s.mem.length_readBytes s.index.toNat (x.toNat + 1)
  have hx := x.isLt
  rw [State.loaded, State.bumpIndex_reg, State.setRegsFrom_reg _ _ _ _ (by omega)]
  by_cases hj : j.toNat ≤ x.toNat
  · rw [dif_pos (by omega), if_pos hj, Memory.getElem_readBytes, Nat.sub_zero]
  · rw [dif_neg (by omega), if_neg hj, State.advance_reg]

/-- FX65 whose bytes lie in memory loads them. -/
theorem exec_ldXMem_of_fits (x : RegIx) (s : State) (hfit : s.index.toNat + (x.toNat + 1) ≤ memSize) :
    exec (.ldXMem x) s = .next (s.loaded x) := by
  simp only [exec, execLdXMem, rangeFault_eq_none.mpr (.inr hfit), State.loaded]

/-- FX65 that runs past memory faults at its lowest address out of bounds (R187). -/
theorem exec_ldXMem_of_overrun (x : RegIx) (s : State) (hover : memSize < s.index.toNat + (x.toNat + 1)) :
    exec (.ldXMem x) s =
      .next (s.raiseAt (.ldXMem x) .outOfBoundsAccess (some (max s.index.toNat memSize)) .read) := by
  simp only [exec, execLdXMem, rangeFault_eq_some.mpr ⟨Nat.succ_pos x.toNat, hover, rfl⟩]

theorem State.loaded_pc (s : State) (x : RegIx) : (s.loaded x).pc = s.pc + 2 := by
  simp [State.loaded]

theorem State.toNat_loaded_index (s : State) (x : RegIx) :
    (s.loaded x).index.toNat =
      if s.cfg.loadstoreIncrementsI then (s.index.toNat + x.toNat + 1) % 65536 else s.index.toNat := by
  simp [State.loaded, State.toNat_bumpIndex_index]

theorem State.loaded_keptBut (s : State) (x : RegIx) : KeptBut [.registers, .indexRegister] s (s.loaded x) :=
  ((KeptBut.advance _ s).setRegsFrom (by decide) 0 _).bumpIndex (by decide) x

/-- Settles O27, by whether the bytes for V0 to VX lie in memory. -/
theorem registerLoad : Obligations.RegisterLoad := by
  refine ⟨fun x => decodes_of_encode rfl rfl, rfl, fun x s => ⟨fun hfit => ?_, fun hover => ?_⟩⟩
  · refine ⟨s.loaded x, exec_ldXMem_of_fits x s hfit, s.loaded_pc x, fun j hj => ?_, fun j hj => ?_,
      s.toNat_loaded_index x, s.loaded_keptBut x⟩
    · rw [State.loaded_reg, if_pos hj]
      exact State.memRead_eq_some.mpr ⟨Nat.lt_of_le_of_lt (Nat.add_le_add_left hj _) hfit, rfl⟩
    · rw [State.loaded_reg, if_neg (Nat.not_le.mpr hj)]
  · exact exec_ldXMem_of_overrun x s (Nat.lt_succ_of_le hover)

end Sys2Proof.Machine
end

section
/-! SUPPORT and the settled statements on faults and on the host operations: precise faults, the FAULTED block, the
key-wait, the timers, the keypad and the reads (spec/60_exceptions.md R203 to R225). -/

namespace Sys2Proof.Machine

/-! ## Every instruction answers (R203) -/

/-- Settles O46: the instructions that test something answer a next state on both sides of the test. -/
theorem everyInstructionAnswersANextState : Obligations.EveryInstructionAnswersANextState := by
  intro i s
  cases i
  case sys | ret | call | drw | skp | sknp | ldXK | ldB | ldMemX | ldXMem =>
    simp only [exec, execSys, execRet, execCall, execDrw, execSkp, execSknp, execLdXK, execLdB, execLdMemX, execLdXMem]
    split
    all_goals exact ⟨_, rfl⟩
  all_goals exact ⟨_, rfl⟩

/-! ## The frame of each host operation (R215) -/

/-- A frame that leaves both timers open is kept by a tick. -/
theorem KeptBut.tickTimers {changed : List Part} {s t : State} (h : KeptBut changed s t)
    (hdelay : .delayTimer ∈ changed) (hsound : .soundTimer ∈ changed) : KeptBut changed s t.tickTimers := by
  obtain ⟨hparts, hrest⟩ := h
  refine ⟨fun p hp => ?_, hrest⟩
  have hsame := hparts p hp
  cases p
  case delayTimer => exact absurd hdelay hp
  case soundTimer => exact absurd hsound hp
  all_goals exact hsame

/-- A frame that leaves the keypad open is kept by a change of one key. -/
theorem KeptBut.setKey {changed : List Part} {s t : State} (h : KeptBut changed s t) (hkeypad : .keypad ∈ changed)
    (k : Nibble) (b : Bool) : KeptBut changed s (t.setKey k b) := by
  obtain ⟨hparts, hrest⟩ := h
  refine ⟨fun p hp => ?_, hrest⟩
  have hsame := hparts p hp
  cases p
  case keypad => exact absurd hkeypad hp
  all_goals exact hsame

/-- A frame that leaves the wait register open is kept by a write to it. -/
theorem KeptBut.setWait {changed : List Part} {s t : State} (h : KeptBut changed s t) (hwait : .waitRegister ∈ changed)
    (w : Option RegIx) : KeptBut changed s (t.setWait w) := by
  obtain ⟨hparts, hrest⟩ := h
  refine ⟨fun p hp => ?_, hrest⟩
  have hsame := hparts p hp
  cases p
  case waitRegister => exact absurd hwait hp
  all_goals exact hsame

/-- A frame that leaves the registers and the wait register open is kept by the completion of a wait. -/
theorem KeptBut.completeWait {changed : List Part} {s t : State} (h : KeptBut changed s t)
    (hregs : .registers ∈ changed) (hwait : .waitRegister ∈ changed) (k : Nibble) :
    KeptBut changed s (t.completeWait k) := by
  unfold State.completeWait
  split
  · exact (h.setReg hregs _ _).setWait hwait none
  · exact h

/-! ## The completion of a key-wait (R220) -/

@[simp] theorem State.completeWait_pc (s : State) (k : Nibble) : (s.completeWait k).pc = s.pc := by
  unfold State.completeWait; split <;> rfl

@[simp] theorem State.completeWait_fault (s : State) (k : Nibble) : (s.completeWait k).fault = s.fault := by
  unfold State.completeWait; split <;> rfl

@[simp] theorem State.completeWait_keyDown (s : State) (k j : Nibble) :
    (s.completeWait k).keyDown j = s.keyDown j := by
  unfold State.completeWait; split <;> rfl

/-- No register is waited for after a completion, whether one was before or not. -/
@[simp] theorem State.completeWait_waitReg (s : State) (k : Nibble) : (s.completeWait k).waitReg = none := by
  unfold State.completeWait
  split
  · rfl
  · assumption

/-- A completion writes the key to the register waited for, and to no other. -/
theorem State.completeWait_reg (s : State) (k : Nibble) (j : RegIx) :
    (s.completeWait k).reg j = if s.waitReg = some j then k.setWidth 8 else s.reg j := by
  unfold State.completeWait
  split
  · rename_i x hw
    simp only [hw, State.setWait_reg, State.setReg_reg, Option.some.injEq, eq_comm]
  · rename_i hw
    simp only [hw, reduceCtorEq, if_false]

/-! ## Refused keys, and the fault record (R219) -/

/-- A press of a key above 15 is an interface error (D28). -/
theorem State.press_of_gt (s : State) {k : Nat} (h : 15 < k) : s.press k = s := if_pos h

/-- A release of a key above 15 is an interface error (D28). -/
theorem State.release_of_gt (s : State) {k : Nat} (h : 15 < k) : s.release k = s := if_pos h

@[simp] theorem State.press_fault (s : State) (k : Nat) : (s.press k).fault = s.fault := by
  rcases s.press_cases k with hp | hp
  all_goals simp [hp]

@[simp] theorem State.release_fault (s : State) (k : Nat) : (s.release k).fault = s.fault := by
  rcases s.release_cases k with hr | hr
  all_goals simp [hr]

/-! ## Which operations have a step (R207) -/

theorem perform_tickTimers {s : State} (hf : s.fault = none) : perform .tickTimers s = .next s.tickTimers :=
  unlessFaulted_eq_next.mpr ⟨hf, rfl⟩

theorem perform_press {s : State} (hf : s.fault = none) (k : Nat) : perform (.press k) s = .next (s.press k) :=
  (unlessFaulted_eq_next (f := fun t => t.press k)).mpr ⟨hf, rfl⟩

theorem perform_release {s : State} (hf : s.fault = none) (k : Nat) : perform (.release k) s = .next (s.release k) :=
  (unlessFaulted_eq_next (f := fun t => t.release k)).mpr ⟨hf, rfl⟩

/-- Only the reads answer a next state in a FAULTED block, and it is the same state. -/
theorem perform_of_faulted {op : HostOp} {s t : State} (hf : s.fault ≠ none) (h : perform op s = .next t) :
    (op = .readStatus ∨ op = .readFramebuffer) ∧ t = s := by
  cases op
  case cycle => exact absurd (cycle_eq_next h).1 hf
  case tickTimers | press | release | loadBinary =>
    rw [perform, unlessFaulted_eq_next] at h
    exact absurd h.1 hf
  case readStatus => cases h; exact ⟨.inl rfl, rfl⟩
  case readFramebuffer => cases h; exact ⟨.inr rfl, rfl⟩

/-- Settles O40: a step is a cycle, which a FAULTED block has not, or the first operation of the schedule. -/
theorem aFaultedBlockStaysFaulted : Obligations.AFaultedBlockStaysFaulted := by
  refine ⟨fun s op hf => ⟨?_, fun hstatus hframe t h => ?_⟩, fun s t hf h => ?_⟩
  · rintro (rfl | rfl)
    all_goals rfl
  · exact (perform_of_faulted hf h).1.elim hstatus hframe
  · cases hs : s.schedule with
    | nil =>
      rw [step_of_empty_schedule hs] at h
      exact absurd (cycle_eq_next h).1 hf
    | cons op rest =>
      rw [step_of_scheduled hs] at h
      rw [(perform_of_faulted (s := s.setSchedule rest) hf h).2, State.setSchedule_fault]

/-! ## Precise faults (R206) -/

/-- An instruction that leaves a fault where there was none changes nothing but the record. -/
theorem exec_fault_precise {i : Instr} {s t : State} (h : exec i s = .next t) (hf : s.fault = none)
    (ht : t.fault ≠ none) : t = { s with fault := t.fault } := by
  rcases exec_eq_next h with ⟨k, a, d, rfl, -⟩ | ⟨hsame, -⟩
  · rfl
  · exact absurd (hsame.trans hf) ht

theorem fetchExecute_fault_precise {s t : State} (h : fetchExecute s = .next t) (hf : s.fault = none)
    (ht : t.fault ≠ none) : t = { s with fault := t.fault } := by
  rcases fetchExecute_eq_next h with ⟨a, -, rfl⟩ | ⟨w, -, -, rfl⟩ | ⟨w, i, -, -, he⟩
  · rfl
  · rfl
  · exact exec_fault_precise he hf ht

/-- A halted block's cycle raises no fault, so the fault is one of the fetch, the word or the instruction. -/
theorem cycle_fault_precise {s t : State} (h : cycle s = .next t) (ht : t.fault ≠ none) :
    t = { s with started := true, fault := t.fault } := by
  obtain ⟨hf, ⟨-, rfl⟩ | ⟨-, he⟩⟩ := cycle_eq_next h
  · exact absurd hf ht
  · exact fetchExecute_fault_precise (s := s.start) he hf ht

/-- New values of `started`, the record and the schedule are all that `OnlyFaulted` allows. -/
theorem onlyFaulted_of_eq {s t : State} {b : Bool} {f : Option FaultRecord} {ops : List HostOp}
    (h : t = { s with started := b, fault := f, schedule := ops }) : OnlyFaulted s t := by
  subst h
  rfl

/-- Settles O39: of the other operations only a load that does not fit raises a fault. -/
theorem faultsArePrecise : Obligations.FaultsArePrecise := by
  refine ⟨fun s t _ h ht => cycle_fault_precise h ht, fun s t hf h ht => ?_⟩
  rcases step_eq_next h with ⟨-, hc⟩ | ⟨op, rest, -, hop⟩
  · exact onlyFaulted_of_eq (cycle_fault_precise hc ht)
  rcases hop with ⟨-, hc⟩ | ⟨-, -, rfl⟩ | ⟨-, k, -, rfl⟩ | ⟨-, k, -, rfl⟩ | ⟨-, data, offset, -, rfl⟩ | ⟨-, rfl⟩
  · exact onlyFaulted_of_eq (cycle_fault_precise (s := s.setSchedule rest) hc ht)
  · exact absurd hf ht
  · exact absurd (((s.setSchedule rest).press_fault k).trans hf) ht
  · exact absurd (((s.setSchedule rest).release_fault k).trans hf) ht
  · rcases (s.setSchedule rest).loadBinary_cases data offset with hl | ⟨-, hl | ⟨-, hl⟩⟩
    all_goals rw [hl] at ht ⊢
    · exact absurd hf ht
    · exact onlyFaulted_of_eq rfl
    · exact absurd hf ht
  · exact absurd hf ht

/-! ## The end of a key-wait (R220, R223) -/

/-- A cycle of a halted block only starts it (R40). -/
theorem cycle_eq_start_of_halted {s t : State} (hh : s.halted = true) (h : cycle s = .next t) : t = s.start := by
  obtain ⟨-, ⟨-, rfl⟩ | ⟨hrun, -⟩⟩ := cycle_eq_next h
  · rfl
  · simp [hh] at hrun

/-- Settles O48, by the operation the step performs: a press above 15 is refused, and none of the others but a cycle
can reach wait_reg, pc or a register. -/
theorem onlyAPressEndsTheWait : Obligations.OnlyAPressEndsTheWait := by
  intro s t hh h
  rcases step_eq_next h with ⟨-, hc⟩ | ⟨op, rest, hs, hop⟩
  · obtain rfl := cycle_eq_start_of_halted hh hc
    exact .inr ⟨rfl, rfl, fun _ => rfl⟩
  rcases hop with ⟨-, hc⟩ | ⟨-, -, rfl⟩ | ⟨-, k, rfl, rfl⟩ | ⟨-, k, -, rfl⟩ | ⟨-, data, offset, -, rfl⟩ | ⟨-, rfl⟩
  · obtain rfl := cycle_eq_start_of_halted (s := s.setSchedule rest) hh hc
    exact .inr ⟨rfl, rfl, fun _ => rfl⟩
  · exact .inr ⟨rfl, rfl, fun _ => rfl⟩
  · by_cases hk : k ≤ 15
    · exact .inl ⟨k, rest, hk, hs⟩
    · rw [State.press_of_gt _ (Nat.lt_of_not_le hk)]
      exact .inr ⟨rfl, rfl, fun _ => rfl⟩
  · rcases (s.setSchedule rest).release_cases k with hr | hr <;> rw [hr] <;> exact .inr ⟨rfl, rfl, fun _ => rfl⟩
  · rcases (s.setSchedule rest).loadBinary_cases data offset with hl | ⟨-, hl | ⟨-, hl⟩⟩ <;> rw [hl] <;>
      exact .inr ⟨rfl, rfl, fun _ => rfl⟩
  · exact .inr ⟨rfl, rfl, fun _ => rfl⟩

/-! ## press and release (R219, R220) -/

/-- A key 0 to 15 as a nibble is that key alone. -/
theorem eq_ofNat_key_iff {k : Nat} (hk : k ≤ 15) (j : Nibble) : j = BitVec.ofNat 4 k ↔ j.toNat = k := by
  rw [← BitVec.toNat_inj, BitVec.toNat_ofNat, Nat.mod_eq_of_lt (by omega)]

/-- A key 0 to 15 as the byte a completed wait hands over. -/
theorem setWidth_ofNat_key {k : Nat} (hk : k ≤ 15) : (BitVec.ofNat 4 k).setWidth 8 = BitVec.ofNat 8 k := by
  apply BitVec.eq_of_toNat_eq
  rw [BitVec.toNat_setWidth_of_le (by decide), BitVec.toNat_ofNat, BitVec.toNat_ofNat]
  omega

/-- A change of key `k` is read back at `k`, and every other key reads as before. -/
theorem State.setKey_ofNat_keyDown (s : State) {k : Nat} (hk : k ≤ 15) (b : Bool) :
    (s.setKey (BitVec.ofNat 4 k) b).keyDown (BitVec.ofNat 4 k) = b ∧
      ∀ j : Nibble, j.toNat ≠ k → (s.setKey (BitVec.ofNat 4 k) b).keyDown j = s.keyDown j := by
  refine ⟨?_, fun j hj => ?_⟩
  · rw [State.setKey_keyDown, if_pos rfl]
  · rw [State.setKey_keyDown, if_neg (mt (eq_ofNat_key_iff hk j).mp hj)]

/-- Settles O55: both change one key, and the press completes a wait after it. -/
theorem pressAndRelease : Obligations.PressAndRelease := by
  intro s k
  refine ⟨fun hf hk => ?_, fun hf hk => ?_, fun hk => ⟨s.press_of_gt hk, s.release_of_gt hk⟩, fun hf t => ⟨?_, ?_⟩⟩
  · obtain ⟨hkey, hothers⟩ := s.setKey_ofNat_keyDown hk true
    have hwait := (s.setKey (BitVec.ofNat 4 k) true).completeWait_waitReg (BitVec.ofNat 4 k)
    refine ⟨_, (perform_press hf k).trans (congrArg _ (s.press_of_le hk)), ?_, ?_, fun j hj => ?_, hwait, ?_,
      fun j => ?_, ((KeptBut.refl _ s).setKey (by decide) _ _).completeWait (by decide) (by decide) _⟩
    · exact State.completeWait_pc _ _
    · rw [State.completeWait_keyDown, hkey]
    · rw [State.completeWait_keyDown, hothers j hj]
    · rw [State.halted, hwait, Option.isSome_none]
    · rw [State.completeWait_reg, setWidth_ofNat_key hk, State.setKey_waitReg, State.setKey_reg]
  · obtain ⟨hkey, hothers⟩ := s.setKey_ofNat_keyDown hk false
    exact ⟨_, (perform_release hf k).trans (congrArg _ (s.release_of_le hk)), rfl, hkey, hothers,
      (KeptBut.refl _ s).setKey (by decide) _ _⟩
  · exact fun h => by simpa using (perform_of_faulted hf h).1
  · exact fun h => by simpa using (perform_of_faulted hf h).1

/-! ## The timers (R217, R218) -/

/-- Settles O53: one tick counts each timer down. -/
theorem tickDecrementsTheTimers : Obligations.TickDecrementsTheTimers := by
  refine fun s => ⟨fun hf => ?_, fun hf t h => by simpa using (perform_of_faulted hf h).1⟩
  exact ⟨_, perform_tickTimers hf, toNat_countDown s.dt, toNat_countDown s.st, rfl,
    (KeptBut.refl _ s).tickTimers (by decide) (by decide)⟩

/-- Settles O54, by induction on the number of ticks. -/
theorem manyTicksStopAtZero : Obligations.ManyTicksStopAtZero := by
  intro n s
  induction n with
  | zero => exact ⟨rfl, rfl, rfl, KeptBut.refl _ s⟩
  | succ n ih =>
    obtain ⟨hdelay, hsound, hpc, hkept⟩ := ih
    rw [Function.iterate_succ_apply']
    refine ⟨?_, ?_, hpc, hkept.tickTimers (by decide) (by decide)⟩
    · exact (toNat_countDown _).trans (by rw [hdelay, Nat.sub_sub])
    · exact (toNat_countDown _).trans (by rw [hsound, Nat.sub_sub])

/-! ## read_framebuffer (R222) -/

/-- The rows put end to end are the flattened grid. -/
theorem State.readFramebuffer_eq_flatten (s : State) : s.readFramebuffer = s.fb.flatten.toList := by
  simp [State.readFramebuffer, Vector.flatten, List.flatMap, Vector.toList, Function.comp_def]

/-- Settles O58: index y * 64 + x of the flattened grid is column x of row y. -/
theorem framebufferIsReadRowMajor : Obligations.FramebufferIsReadRowMajor := by
  intro s
  rw [s.readFramebuffer_eq_flatten]
  refine ⟨Vector.length_toList, rfl, fun px py => ?_⟩
  have hlt : py.val * 64 + px.val < 32 * 64 := by omega
  have hrow : (py.val * 64 + px.val) / 64 = py.val := by omega
  have hcol : (py.val * 64 + px.val) % 64 = px.val := by omega
  rw [Vector.getElem?_toList, Vector.getElem?_eq_getElem hlt, Vector.getElem_flatten]
  simp only [hrow, hcol]
  rfl

/-! ## The idle self-jump (R225) -/

/-- Settles O49: the jump leaves pc where it was, so only the start of the cycle remains. -/
theorem aSelfJumpIsIdle : Obligations.ASelfJumpIsIdle := by
  intro s nnn hf hh hw hpc
  have hdecode : Decodes (encA 0x1 nnn) (.jp nnn) := decodes_of_encode rfl rfl
  have haddr : addrOf nnn = s.pc := BitVec.eq_of_toNat_eq ((toNat_addrOf nnn).trans hpc.symm)
  rw [cycle_of_running hf hh, fetchExecute_of_instr (s.fetch_start.trans hw) (hdecode _), exec_jp, haddr]
  rfl

end Sys2Proof.Machine
end

section
/-! SUPPORT and the settled statements on reset, the boot and fair hosts (spec/70_reset_and_hazards.md R240 to R243,
R254). -/

namespace Sys2Proof.Machine

/-! ## Reset (R240) -/

/-- Settles O38: after reset there is no fault, nothing waits and no stack entry is in use. -/
theorem theInvariantsHoldAtReset : Obligations.TheInvariantsHoldAtReset := by
  refine .of_no_fault rfl State.reset_mem_wf (by decide) (by decide) (fun j hj => ?_) (fun hwait => ?_)
  · exact absurd hj (Nat.not_lt_zero j.toNat)
  · exact absurd hwait Bool.false_ne_true

/-! ## The boot (R242, R243) -/

section Boot

variable {c : Config} (hfont : c.fontImage.length ≤ memSize)
include hfont

/-- The font's own address is 0, so its length is all that must fit. -/
theorem fontBase_add_length_le : fontBase + c.fontImage.length ≤ memSize := (Nat.zero_add _).trans_le hfont

/-- A font that fits is stored by the boot, and the program is loaded after it. -/
theorem State.boot_eq_loadBinary (d : ResetValues) (program : List Byte) :
    State.boot c d program = ((State.construct c d).store fontBase c.fontImage).loadBinary program programBase := by
  have hload : (State.construct c d).loadBinary c.fontImage fontBase = (State.construct c d).store fontBase c.fontImage :=
    State.loadBinary_of_fits _ _ _ rfl rfl (fontBase_add_length_le hfont)
  rw [State.boot, hload]

/-- The font is read back from address 0 up. -/
theorem State.memRead_store_font (s : State) {j : Nat} (hj : j < c.fontImage.length) :
    (s.store fontBase c.fontImage).memRead j = c.fontImage[j]? := by
  have hread := s.memRead_store_inside hj (fontBase_add_length_le hfont)
  rwa [fontBase, Nat.zero_add] at hread

end Boot

/-- Settles O57: both loads are stores, and the second keeps the bytes of the font outside the program's range. -/
theorem bootLoadsFontAndProgram : Obligations.BootLoadsFontAndProgram := by
  rintro c d program t hfont rfl
  rw [State.boot_eq_loadBinary hfont]
  refine ⟨fun hfit => ?_, fun hover => ?_⟩
  · have hroom : programBase + program.length ≤ memSize := Nat.add_le_add_left hfit programBase
    rw [State.loadBinary_of_fits _ _ _ rfl rfl hroom]
    refine ⟨rfl, rfl, rfl, fun j hj => State.memRead_store_inside _ hj hroom, fun j hj hout => ?_⟩
    exact (State.store_bytesKeptOutside _ programBase program j hout).trans (State.memRead_store_font hfont _ hj)
  · rw [State.loadBinary_of_overflow _ _ _ rfl rfl (Nat.add_lt_add_left hover programBase)]
    rfl

/-! ## Runs under a fair host (R216, R254) -/

/-- A timer counts down at a tick and is kept by every operation that is neither a tick nor a cycle. -/
structure CountsDown (timer : State → Byte) : Prop where
  tick : ∀ {s t : State}, stepUnder .tickTimers s = .next t → (timer t).toNat = (timer s).toNat - 1
  other : ∀ {op : HostOp} {s t : State}, stepUnder op s = .next t → op ≠ .tickTimers → op ≠ .cycle → timer t = timer s

theorem delayTimer_countsDown : CountsDown State.dt where
  tick h := (stepUnder_tick h).1
  other h htick hcycle := (stepUnder_other h htick hcycle).1

theorem soundTimer_countsDown : CountsDown State.st where
  tick h := (stepUnder_tick h).2
  other h htick hcycle := (stepUnder_other h htick hcycle).2.1

section TimerOnARun

variable {host : HostTrace} {run : Nat → State} {timer : State → Byte} (hrun : IsRun host run)
  (htimer : CountsDown timer) (hcycle : ∀ n : Nat, host n = .cycle → timer (run (n + 1)) = timer (run n))
include hrun htimer

theorem IsRun.timer_tick {n : Nat} (htick : host n = .tickTimers) :
    (timer (run (n + 1))).toNat = (timer (run n)).toNat - 1 :=
  htimer.tick (htick ▸ hrun n)

include hcycle

/-- No operation of the run raises the timer: a tick lowers it, a cycle keeps it by assumption. -/
theorem IsRun.timer_antitone : Antitone fun n => (timer (run n)).toNat := by
  refine antitone_nat_of_succ_le fun n => ?_
  by_cases htick : host n = .tickTimers
  · exact (hrun.timer_tick htimer htick).trans_le (Nat.sub_le _ 1)
  · by_cases hc : host n = .cycle
    · rw [hcycle n hc]
    · rw [htimer.other (hrun n) htick hc]

/-- A sequence of numbers that never rises is constant from some point on, and a tick at a constant value finds it 0. -/
theorem IsRun.timer_runs_down (hfair : TicksForever host) : ∃ n : Nat, ∀ m : Nat, n ≤ m → timer (run m) = 0#8 := by
  obtain ⟨n, hconst⟩ := WellFoundedLT.antitone_chain_condition (hrun.timer_antitone htimer hcycle)
  obtain ⟨k, hk, htick⟩ := hfair n
  have hzero : (timer (run n)).toNat = 0 := by
    have hdown := hrun.timer_tick htimer htick
    have hat := hconst k hk
    have hafter := hconst (k + 1) (Nat.le_succ_of_le hk)
    omega
  exact ⟨n, fun m hm => BitVec.eq_of_toNat_eq ((hconst m hm).symm.trans hzero)⟩

end TimerOnARun

/-- A block that has started stays started along a run (R38). -/
theorem IsRun.started_mono {host : HostTrace} {run : Nat → State} (hrun : IsRun host run) {n m : Nat} (hnm : n ≤ m)
    (hstarted : (run n).started = true) : (run m).started = true := by
  induction m, hnm using Nat.le_induction with
  | base => exact hstarted
  | succ m _ ih => exact (startedIsNeverUnset.1 _ _ (hrun m)).2 ih

/-- A cycle of a run starts the block (R40). -/
theorem IsRun.started_of_cycle {host : HostTrace} {run : Nat → State} (hrun : IsRun host run) {n : Nat}
    (hcycle : host n = .cycle) : (run (n + 1)).started = true := by
  have hstep : stepUnder .cycle (run n) = .next (run (n + 1)) := hcycle ▸ hrun n
  exact (cycle_started_cfg hstep).1

/-- Settles O60: both timers run down by one argument, and the first cycle starts the block for good. -/
theorem fairHostsRunTheTimersDown : Obligations.FairHostsRunTheTimersDown := by
  intro host run hrun
  refine ⟨fun hticks hkeep => ?_, fun hticks hkeep => ?_, fun hcycles => ?_⟩
  · obtain ⟨n, hzero⟩ := hrun.timer_runs_down delayTimer_countsDown hkeep hticks
    refine ⟨⟨n, hzero⟩, fun hcycles k => ?_⟩
    obtain ⟨m, hm, hcycle⟩ := hcycles (max k n)
    exact ⟨m, le_of_max_le_left hm, hcycle, hzero m (le_of_max_le_right hm)⟩
  · obtain ⟨n, hzero⟩ := hrun.timer_runs_down soundTimer_countsDown hkeep hticks
    exact ⟨n, fun m hm => by rw [State.soundActive, hzero m hm]; rfl⟩
  · obtain ⟨n, -, hcycle⟩ := hcycles 0
    exact ⟨n + 1, fun m hm => hrun.started_mono hm (hrun.started_of_cycle hcycle)⟩

end Sys2Proof.Machine
end
